-- ==== Sys2Proof/Word.lean ====
section
/-! DEFINITION. The word types of the block: a framebuffer byte, a pixel nibble, a 64-bit command or response word
(spec 30_encoding.md R60, R61; 20_memory.md R43). -/

namespace Sys2Proof

/-- One byte of the framebuffer, the configuration byte `CFG`, or a receiver register (10_state.md R13, R15, R22). -/
abbrev Byte := BitVec 8

/-- One 4-bit pixel level (20_memory.md R43). -/
abbrev Nibble := BitVec 4

/-- One 64-bit command word or response word (30_encoding.md R60). -/
abbrev Word := BitVec 64

end Sys2Proof
end

