-- ==== Sys2Proof/Config.lean ====
section
/-! DEFINITION. What one instance of the block fixes (geometry, the model parameters of 00_scope.md section 4), and the
values the spec leaves open, as constants without a body: nothing in Lean can evaluate one or prove a value of it. -/

namespace Sys2Proof

/-- The panel geometry with the constraints of 00_scope.md R3 carried as proofs, so that an instance outside them cannot
be written down (93_implementation_defined.md U17: "refuse the instance"). -/
structure Geometry where
  /-- `WIDTH`, pixels in a row (R1). -/
  width : Nat
  /-- `HEIGHT`, rows (R1). -/
  height : Nat
  width_pos : 1 ≤ width
  width_le : width ≤ 2047
  height_pos : 1 ≤ height
  height_le : height ≤ 2047
  even_pixels : width * height % 2 = 0
  deriving DecidableEq, Repr

/-- `NPIX = WIDTH × HEIGHT` (R2). -/
def Geometry.npix (g : Geometry) : Nat := g.width * g.height

/-- `FB_BYTES = (WIDTH × HEIGHT) / 2` (R2), exact because the product is even. -/
def Geometry.fbBytes (g : Geometry) : Nat := g.npix / 2

/-- The spec's default instance, 960 × 540 (R1). -/
def Geometry.epd47 : Geometry :=
  ⟨960, 540, by decide, by decide, by decide, by decide, by decide⟩

/-- The draw mode, an operand of FLUSH only and no state (10_state.md R25; values 30_encoding.md R65). -/
inductive DrawMode where
  | blackOnWhite
  | whiteOnBlack
  | whiteOnWhite
  deriving DecidableEq, Repr

/-- The six configuration-register commands, as a schedule's `Cfg(c)` step names them (43_power_and_panel_ops.md R146). -/
inductive CfgCommand where
  | enPwr
  | enVolt
  | enOut
  | disOut
  | disVolt
  | disPwr
  deriving DecidableEq, Repr

/-- One step of a flush or repair schedule (R146). A pulse step carries the proof that not both durations are 0. A bus
tag is uninterpreted (93_implementation_defined.md U14). -/
inductive SchedStep where
  | pulse (high low : BitVec 16) (wait : Bool) (nonempty : ¬(high = 0#16 ∧ low = 0#16))
  | cfg (c : CfgCommand)
  | settle (ms : Nat)
  | bus (tag : Nat)
  deriving DecidableEq, Repr

/-- The parameters of one instance and the environment's inputs as far as they are settled in advance; no step changes
any of it (10_state.md R26, R30). The two tapes are the model's own: a run may fix the first samples of an input, and what
lies beyond a tape is a free value (notes/assumptions/2.md, 3.md). -/
structure Env where
  /-- `WIDTH` and `HEIGHT` (R1). -/
  geom : Geometry
  /-- The parameter `NO_FAULTS`: the fault input is constantly 0 (R30). -/
  noFaults : Bool
  /-- The fairness assumption of 42_pulse_ops.md R131: a running transmission that is waited for ends. -/
  fairTx : Bool
  /-- Fault samples settled in advance, counted from reset. -/
  faultTape : List Bool
  /-- Transmitter steps settled in advance, one number for each scheduling draw, counted from reset. -/
  txTape : List Nat
  deriving DecidableEq, Repr

/-- Free value: fault sample number `n` since reset, where no tape settles it (10_state.md R30, U18). -/
opaque Config.faultInput : Nat → Bool

/-- Free value: how many steps the transmitter agent takes at scheduling draw number `n` since reset, where no tape
settles it (42_pulse_ops.md R126, R129; 60_exceptions.md R169; U2). -/
opaque Config.txSteps : Nat → Nat

/-- Free value: the shift stage `SR` of the reference receiver after reset (10_state.md R23, U3). -/
opaque Config.srAtReset : Byte

/-- Free value: the output latches `Q` of the reference receiver after reset (10_state.md R23, U3). -/
opaque Config.qAtReset : Byte

/-- The open parameter `FLUSH_SCHED(mode, fb)`: for each instance, a function of the mode and of the framebuffer's bytes
in address order (43_power_and_panel_ops.md R146, D27; 20_memory.md R45, R53). -/
opaque Config.flushSched : Geometry → DrawMode → List Byte → List SchedStep

/-- The open parameter `REPAIR_SCHED`: for each instance, a fixed list of steps (R150, D28). -/
opaque Config.repairSched : Geometry → List SchedStep

/-- The open parameter `TICK_NS`, nanoseconds of one pulse tick (00_scope.md section 4, D21); no rule uses it. -/
opaque Config.tickNs : Nat

/-- `M_OE`, the output-enable bit of `CFG` (10_state.md R15). -/
def Config.maskOe : Byte := 0x01#8

/-- `M_PWR`, the power-enable bit of `CFG` (R15). -/
def Config.maskPwr : Byte := 0x04#8

/-- `M_VOLT`, both voltage-enable bits of `CFG` (R15). -/
def Config.maskVolt : Byte := 0x18#8

/-- `SETTLE_PWR_MS` (00_scope.md section 4). -/
def Config.settlePwrMs : Nat := 10

/-- `SETTLE_VOLT_MS`. -/
def Config.settleVoltMs : Nat := 20

/-- `SETTLE_OUT_MS`. -/
def Config.settleOutMs : Nat := 5

end Sys2Proof
end

