-- ==== Sys2Proof/Syntax.lean ====
section
/-! DEFINITION. The 19 commands of spec/opcode_table.json, one constructor per row, with the fields of the four formats
G, T, M, N as operands (30_encoding.md R61 to R67). -/

namespace Sys2Proof

/-- A command of the block. Coordinates, sizes, levels and durations keep the width of their fields: values outside an
operation's legal range are decoded and refused by the command's own checks (30_encoding.md R64, R71). -/
inductive Instr where
  /-- SET_PIXEL x, y, level (40_framebuffer_ops.md R80). -/
  | setPixel (x y : BitVec 12) (level : BitVec 8)
  /-- GET_PIXEL x, y (R81). -/
  | getPixel (x y : BitVec 12)
  /-- FILL level (R82). -/
  | fill (level : BitVec 8)
  /-- CLEAR (R83). -/
  | clear
  /-- FILL_RECT x, y, w, h, level (R84). -/
  | fillRect (x y w h : BitVec 12) (level : BitVec 8)
  /-- DRAW_PIXEL x, y, level; x and y are two's complement (R85; 30_encoding.md R64). -/
  | drawPixel (x y : BitVec 12) (level : BitVec 8)
  /-- BBOX (R87). -/
  | bbox
  /-- EN_PWR (41_config_register_ops.md R102). -/
  | enPwr
  /-- EN_VOLT (R103). -/
  | enVolt
  /-- EN_OUT (R104). -/
  | enOut
  /-- DIS_OUT (R105). -/
  | disOut
  /-- DIS_VOLT (R106). -/
  | disVolt
  /-- DIS_PWR (R107). -/
  | disPwr
  /-- PULSE high, low, wait (42_pulse_ops.md R120). -/
  | pulse (high low : BitVec 16) (wait : Bool)
  /-- POWER_ON (43_power_and_panel_ops.md R140). -/
  | powerOn
  /-- POWER_OFF (R141). -/
  | powerOff
  /-- FLUSH mode (R145). -/
  | flush (mode : DrawMode)
  /-- REPAIR (R149). -/
  | repair
  /-- STAT (42_pulse_ops.md R132). -/
  | stat
  deriving DecidableEq, Repr

end Sys2Proof
end

