-- ==== Sys2Proof/WellFormed.lean ====
section
/-! DEFINITION. Which terms of the syntax are commands of the block: the one reserved operand value the constructors do
not already exclude (30_encoding.md R70; FLUSH with mode 3 is no `DrawMode`). -/

namespace Sys2Proof

/-- The check behind `Instr.WellFormed`: a PULSE has a duration that is not 0 (30_encoding.md R70 (b)). -/
def Instr.wf : Instr → Bool
  | .pulse high low _ => !(high == 0#16 && low == 0#16)
  | .setPixel .. => true
  | .getPixel .. => true
  | .fill .. => true
  | .clear => true
  | .fillRect .. => true
  | .drawPixel .. => true
  | .bbox => true
  | .enPwr => true
  | .enVolt => true
  | .enOut => true
  | .disOut => true
  | .disVolt => true
  | .disPwr => true
  | .powerOn => true
  | .powerOff => true
  | .flush _ => true
  | .repair => true
  | .stat => true

/-- `i` is a command some word of the host stands for. -/
abbrev Instr.WellFormed (i : Instr) : Prop := i.wf = true

end Sys2Proof
end

