-- ==== Sys2Proof/Decode.lean ====
section
/-! DEFINITION. From a 64-bit command word to a command or a named rejection, and back (30_encoding.md R61 to R71, R74). -/

namespace Sys2Proof

/-- Why a command word is `IllegalCommand` (30_encoding.md R68 to R70). -/
inductive DecodeError where
  /-- The opcode byte is none of the 19 of R67 (R69). -/
  | undefinedOpcode
  /-- A reserved bit of the command is 1 (R68). -/
  | reservedBit
  /-- FLUSH with mode 3, or PULSE with both durations 0 (R70). -/
  | reservedOperand
  deriving DecidableEq, Repr

/-- The 19 opcodes, as names (30_encoding.md R67). -/
inductive Opcode where
  | setPixel | getPixel | fill | clear | fillRect | drawPixel | bbox
  | enPwr | enVolt | enOut | disOut | disVolt | disPwr
  | pulse | powerOn | powerOff | flush | repair | stat
  deriving DecidableEq, Repr

/-- The opcode byte, bits 63:56 of the word (30_encoding.md R67). -/
def Opcode.byte : Opcode → Byte
  | .setPixel => 0x01#8
  | .getPixel => 0x02#8
  | .fill => 0x03#8
  | .clear => 0x04#8
  | .fillRect => 0x05#8
  | .drawPixel => 0x06#8
  | .bbox => 0x07#8
  | .enPwr => 0x10#8
  | .enVolt => 0x11#8
  | .enOut => 0x12#8
  | .disOut => 0x13#8
  | .disVolt => 0x14#8
  | .disPwr => 0x15#8
  | .pulse => 0x20#8
  | .powerOn => 0x30#8
  | .powerOff => 0x31#8
  | .flush => 0x32#8
  | .repair => 0x33#8
  | .stat => 0x3F#8

/-- The reserved bits of each command, which must be 0 (30_encoding.md R68). -/
def Opcode.reserved : Opcode → Word
  | .setPixel => 0x00000000FFFFFF00#64
  | .getPixel => 0x00000000FFFFFFFF#64
  | .fill => 0x00FFFFFFFFFFFF00#64
  | .clear => 0x00FFFFFFFFFFFFFF#64
  | .fillRect => 0x0000000000000000#64
  | .drawPixel => 0x00000000FFFFFF00#64
  | .bbox => 0x00FFFFFFFFFFFFFF#64
  | .enPwr => 0x00FFFFFFFFFFFFFF#64
  | .enVolt => 0x00FFFFFFFFFFFFFF#64
  | .enOut => 0x00FFFFFFFFFFFFFF#64
  | .disOut => 0x00FFFFFFFFFFFFFF#64
  | .disVolt => 0x00FFFFFFFFFFFFFF#64
  | .disPwr => 0x00FFFFFFFFFFFFFF#64
  | .pulse => 0x00000000007FFFFF#64
  | .powerOn => 0x00FFFFFFFFFFFFFF#64
  | .powerOff => 0x00FFFFFFFFFFFFFF#64
  | .flush => 0x00FFFFFFFFFFFFFC#64
  | .repair => 0x00FFFFFFFFFFFFFF#64
  | .stat => 0x00FFFFFFFFFFFFFF#64

/-- Every opcode, in the table's order. -/
def allOpcodes : List Opcode :=
  [.setPixel, .getPixel, .fill, .clear, .fillRect, .drawPixel, .bbox]
    ++ [.enPwr, .enVolt, .enOut, .disOut, .disVolt, .disPwr]
    ++ [.pulse, .powerOn, .powerOff, .flush, .repair, .stat]

/-- The opcode a byte stands for, if any (R67, R69). -/
def opcodeOfByte (b : Byte) : Option Opcode := allOpcodes.find? (fun o => o.byte == b)

/-- `w[63:56]` (30_encoding.md R61). -/
def Word.op (w : Word) : Byte := w.extractLsb' 56 8
/-- Format G, `w[55:44]` (R62). -/
def Word.x (w : Word) : BitVec 12 := w.extractLsb' 44 12
/-- Format G, `w[43:32]` (R62). -/
def Word.y (w : Word) : BitVec 12 := w.extractLsb' 32 12
/-- Format G, `w[31:20]` (R62). -/
def Word.w (w : Word) : BitVec 12 := w.extractLsb' 20 12
/-- Format G, `w[19:8]` (R62). -/
def Word.h (w : Word) : BitVec 12 := w.extractLsb' 8 12
/-- Format G, `w[7:0]` (R62). -/
def Word.level (w : Word) : BitVec 8 := w.extractLsb' 0 8
/-- Format T, `w[55:40]` (R63). -/
def Word.high (w : Word) : BitVec 16 := w.extractLsb' 40 16
/-- Format T, `w[39:24]` (R63). -/
def Word.low (w : Word) : BitVec 16 := w.extractLsb' 24 16
/-- Format T, `w[23]` (R63). -/
def Word.wait (w : Word) : Bool := w.getLsbD 23
/-- Format M, `w[1:0]` (R65). -/
def Word.mode (w : Word) : BitVec 2 := w.extractLsb' 0 2

/-- The draw mode a 2-bit field stands for; 3 is reserved (30_encoding.md R65, R70). -/
def drawModeOfBits (m : BitVec 2) : Option DrawMode :=
  if m = 0#2 then some .blackOnWhite
  else if m = 1#2 then some .whiteOnBlack
  else if m = 2#2 then some .whiteOnWhite
  else none

/-- The 2-bit field of a draw mode (R65). -/
def DrawMode.bits : DrawMode → BitVec 2
  | .blackOnWhite => 0#2
  | .whiteOnBlack => 1#2
  | .whiteOnWhite => 2#2

/-- The operands of a word whose opcode is known and whose reserved bits are 0 (30_encoding.md R62 to R65, R70). -/
def decodeOperands (o : Opcode) (w : Word) : Except DecodeError Instr :=
  match o with
  | .setPixel => .ok (.setPixel (Word.x w) (Word.y w) (Word.level w))
  | .getPixel => .ok (.getPixel (Word.x w) (Word.y w))
  | .fill => .ok (.fill (Word.level w))
  | .clear => .ok .clear
  | .fillRect => .ok (.fillRect (Word.x w) (Word.y w) (Word.w w) (Word.h w) (Word.level w))
  | .drawPixel => .ok (.drawPixel (Word.x w) (Word.y w) (Word.level w))
  | .bbox => .ok .bbox
  | .enPwr => .ok .enPwr
  | .enVolt => .ok .enVolt
  | .enOut => .ok .enOut
  | .disOut => .ok .disOut
  | .disVolt => .ok .disVolt
  | .disPwr => .ok .disPwr
  | .pulse =>
    if Word.high w = 0#16 ∧ Word.low w = 0#16 then .error .reservedOperand
    else .ok (.pulse (Word.high w) (Word.low w) (Word.wait w))
  | .powerOn => .ok .powerOn
  | .powerOff => .ok .powerOff
  | .flush =>
    match drawModeOfBits (Word.mode w) with
    | some m => .ok (.flush m)
    | none => .error .reservedOperand
  | .repair => .ok .repair
  | .stat => .ok .stat

/-- Decoding, total on every 64-bit word, in the order of 30_encoding.md R67's closing paragraph: the opcode, the
reserved bits, the reserved operand values, the fields. -/
def decode (w : Word) : Except DecodeError Instr :=
  match opcodeOfByte (Word.op w) with
  | none => .error .undefinedOpcode
  | some o => if w &&& o.reserved = 0#64 then decodeOperands o w else .error .reservedBit

/-- The opcode of a command. -/
def Instr.opcode : Instr → Opcode
  | .setPixel .. => .setPixel
  | .getPixel .. => .getPixel
  | .fill .. => .fill
  | .clear => .clear
  | .fillRect .. => .fillRect
  | .drawPixel .. => .drawPixel
  | .bbox => .bbox
  | .enPwr => .enPwr
  | .enVolt => .enVolt
  | .enOut => .enOut
  | .disOut => .disOut
  | .disVolt => .disVolt
  | .disPwr => .disPwr
  | .pulse .. => .pulse
  | .powerOn => .powerOn
  | .powerOff => .powerOff
  | .flush _ => .flush
  | .repair => .repair
  | .stat => .stat

/-- Format G: `op`, `x`, `y`, `w`, `h`, `level`, most significant first (30_encoding.md R62). -/
def encodeG (o : Opcode) (x y w h : BitVec 12) (level : BitVec 8) : Word :=
  o.byte ++ x ++ y ++ w ++ h ++ level

/-- Format T: `op`, `high`, `low`, `wait`, 23 zeros (R63). -/
def encodeT (o : Opcode) (high low : BitVec 16) (wait : Bool) : Word :=
  o.byte ++ high ++ low ++ BitVec.ofBool wait ++ 0#23

/-- Format M: `op`, 54 zeros, `mode` (R65). -/
def encodeM (o : Opcode) (mode : BitVec 2) : Word := o.byte ++ 0#54 ++ mode

/-- Format N: `op`, 56 zeros (R65). -/
def encodeN (o : Opcode) : Word := o.byte ++ 0#56

/-- The word of a command, unused fields zero (30_encoding.md R61 to R65). -/
def encode : Instr → Word
  | .setPixel x y level => encodeG .setPixel x y 0#12 0#12 level
  | .getPixel x y => encodeG .getPixel x y 0#12 0#12 0#8
  | .fill level => encodeG .fill 0#12 0#12 0#12 0#12 level
  | .clear => encodeN .clear
  | .fillRect x y w h level => encodeG .fillRect x y w h level
  | .drawPixel x y level => encodeG .drawPixel x y 0#12 0#12 level
  | .bbox => encodeN .bbox
  | .enPwr => encodeN .enPwr
  | .enVolt => encodeN .enVolt
  | .enOut => encodeN .enOut
  | .disOut => encodeN .disOut
  | .disVolt => encodeN .disVolt
  | .disPwr => encodeN .disPwr
  | .pulse high low wait => encodeT .pulse high low wait
  | .powerOn => encodeN .powerOn
  | .powerOff => encodeN .powerOff
  | .flush m => encodeM .flush m.bits
  | .repair => encodeN .repair
  | .stat => encodeN .stat

/-- The command port takes one 64-bit word: its low `nbits` bits are `w`'s, every bit above them is 0. -/
def portWord (nbits w : Nat) : Word := BitVec.ofNat 64 (w % 2 ^ nbits)

/-- What `decode` reads from a word of spec/opcode_table.json. -/
def decodeTableWord (nbits w : Nat) : Option Instr :=
  match decode (portWord nbits w) with
  | .ok i => some i
  | .error _ => none

end Sys2Proof
end

