-- ==== Sys2Proof/Machine/State.lean ====
section
/-! DEFINITION. The state of the block as plain data: every register, memory and list of 10_state.md (R10 to R32), the
reference receiver, the host's side of the command port, and the state after reset. -/

namespace Sys2Proof.Machine

/-- The error kinds (60_exceptions.md R160, codes 1 to 7). -/
inductive ErrKind where
  | outOfBounds
  | invalidColor
  | hardware
  | peripheralFailure
  | channelOwnership
  | internal
  | illegalCommand
  deriving DecidableEq, Repr

/-- `STATUS`: `OK` or the kind of the error that ended the last command (10_state.md R11; codes 8 to 255 are never
produced, 93_implementation_defined.md U10). -/
inductive Status where
  | ok
  | err (k : ErrKind)
  deriving DecidableEq, Repr

/-- `PWR`, the logical power state (10_state.md R17; value 3 is never held, U10). -/
inductive PowerState where
  | off
  | on
  | pending
  deriving DecidableEq, Repr

/-- `SLOT`, the local ownership slot of the one pulse channel (10_state.md R18). -/
inductive Slot where
  | empty
  | present
  deriving DecidableEq, Repr

/-- One segment of a pulse program: a line level and a 16-bit tick count (10_state.md R21). -/
structure Seg where
  level : Bool
  ticks : BitVec 16
  deriving DecidableEq, Repr

/-- `TX`, the transmitter agent: idle, or the segments not yet played with the end marker after them (10_state.md R19). -/
inductive Tx where
  | idle
  | running (rest : List Seg)
  deriving DecidableEq, Repr

/-- The three configuration lines (10_state.md R20); the fourth line, `PLS`, is driven by the transmitter alone. -/
inductive Line where
  | data
  | clk
  | stb
  deriving DecidableEq, Repr

/-- The events of `TRACE` (10_state.md R31). -/
inductive Event where
  | line (n : Line) (b : Bool)
  | settle (ms : Nat)
  | txStart (segs : List Seg)
  | seg (level : Bool) (ticks : BitVec 16)
  | txEnd
  | bus (tag : Nat)
  deriving DecidableEq, Repr

/-- The framebuffer's contents: the listed bytes by address; an unlisted one reads as `Memory.unlisted`. -/
abbrev Memory := List Host.Cell

/-- Everything the spec gives the block (10_state.md R10 to R32), the reference receiver (R22), the instance and its
environment (`Env`), and the host's side of the command port. -/
structure State where
  /-- The instance's parameters and the environment's settled inputs; no step changes it (R26, R30). -/
  env : Env
  /-- MODEL'S OWN: the words the host has still to present, in order (30_encoding.md R60, R72). -/
  commands : List Word
  /-- MODEL'S OWN: a waiting pulse holds the command agent for ever (42_pulse_ops.md R128, R131; U13). -/
  held : Bool
  /-- MODEL'S OWN: number of fault samples taken since reset (10_state.md R30). -/
  faultIx : Nat
  /-- MODEL'S OWN: number of scheduling draws taken since reset (60_exceptions.md R169). -/
  txIx : Nat
  /-- `FB`, the framebuffer (R13). -/
  fb : Memory
  /-- `CFG`, the 8-bit intent register (R15). -/
  cfg : Byte
  /-- `PWR`, the logical power state (R17). -/
  pwr : PowerState
  /-- `SLOT`, the ownership slot (R18). -/
  slot : Slot
  /-- `TX`, the transmitter (R19). -/
  tx : Tx
  /-- `PROG`, the pulse program store (R21). -/
  prog : List Seg
  /-- The level register of line `DATA` (R20). -/
  data : Bool
  /-- The level register of line `CLK` (R20). -/
  clk : Bool
  /-- The level register of line `STB` (R20). -/
  stb : Bool
  /-- The level register of line `PLS` (R20). -/
  pls : Bool
  /-- `STATUS` of the last completed command (R11). -/
  status : Status
  /-- `RDATA` of the last completed command (R11). -/
  rdata : BitVec 56
  /-- `SR`, the shift stage of the reference receiver (R22). -/
  sr : Byte
  /-- `Q`, the output latches of the reference receiver (R22). -/
  q : Byte
  /-- `TRACE`, oldest event first (R31). -/
  trace : List Event
  deriving DecidableEq, Repr

/-- Why the machine stops. -/
inductive Fault where
  /-- A framebuffer access to byte `a` outside `0 .. FB_BYTES-1` (20_memory.md R40). Raised by `State.memRead` and
  `State.memWrite` alone. Safe: no command reaches it, because every access follows its bounds check (R42). -/
  | noSuchByte (a : Nat)
  deriving DecidableEq, Repr

/-- Why an instruction is given no meaning. -/
inductive Refusal where
  /-- Raised by no arm of `exec`: every command of the table has its meaning. Safe: a refusal proves nothing. -/
  | notModelled (mnemonic : String)
  deriving DecidableEq, Repr

/-- The instance the reset state stands for: 960 × 540, faults possible, no fairness assumed, nothing settled in advance
(notes/assumptions/1.md to 4.md). -/
def Env.reset : Env where
  geom := Geometry.epd47
  noFaults := false
  fairTx := false
  faultTape := []
  txTape := []

/-- The block right after construction: the table of 10_state.md R32; 70_reset_and_hazards.md R181. `SR` and `Q` are free
values (R23). -/
def State.reset : State where
  env := Env.reset
  commands := []
  held := false
  faultIx := 0
  txIx := 0
  fb := []
  cfg := 0x00#8
  pwr := .off
  slot := .empty
  tx := .idle
  prog := []
  data := false
  clk := false
  stb := true
  pls := false
  status := .ok
  rdata := 0#56
  sr := Config.srAtReset
  q := Config.qAtReset
  trace := []

end Sys2Proof.Machine
end

