-- ==== Sys2Proof/Machine/Ops.lean ====
section
/-! DEFINITION. The named operations the commands are made of: framebuffer bytes and nibbles, the fault input, the trace,
the transmitter agent, the lines with the reference receiver, how a command's steps follow one another, and how a command
ends (the response; an error is one shared operation, `State.raise`). -/

namespace Sys2Proof.Machine

/-- The three outcomes of a step of this machine. -/
abbrev Result := Host.Outcome State Fault Refusal

/-! ### The framebuffer as bytes (20_memory.md R40, R45, R47, R50) -/

/-- What an unlisted framebuffer address reads as: the reset contents `0xFF` (10_state.md R14). -/
def Memory.unlisted : Byte := 0xFF#8

/-- The byte at address `a`. -/
def Memory.read : Memory → Nat → Byte
  | [], _ => Memory.unlisted
  | (k, v) :: rest, a => if k = a then v else Memory.read rest a

/-- Put a cell at its place in the address order. -/
def Memory.insert : Memory → Nat → Byte → Memory
  | [], a, v => [(a, v)]
  | (k, w) :: rest, a, v =>
    if a < k then (a, v) :: (k, w) :: rest else (k, w) :: Memory.insert rest a v

/-- Make byte `a` read as `v`, in canonical form. -/
def Memory.write (m : Memory) (a : Nat) (v : Byte) : Memory :=
  let others := m.filter (fun c => c.1 != a)
  if v = Memory.unlisted then others else Memory.insert others a v

/-- The canonical form: addresses strictly rising, no cell equal to what an unlisted address reads as. -/
abbrev Memory.wf (m : Memory) : Prop :=
  m.Pairwise (fun c d => c.1 < d.1) ∧ ∀ c ∈ m, c.2 ≠ Memory.unlisted

/-- `FB_BYTES` of this instance (00_scope.md R2). -/
def State.fbBytes (s : State) : Nat := s.env.geom.fbBytes

/-- `WIDTH` of this instance (R1). -/
def State.width (s : State) : Nat := s.env.geom.width

/-- `HEIGHT` of this instance (R1). -/
def State.height (s : State) : Nat := s.env.geom.height

/-- `FB[a]` as it stands, for any `a`. -/
def State.byteAt (s : State) (a : Nat) : Byte := s.fb.read a

/-- `MemRead(a, 1)` (00_scope.md section 5); outside the framebuffer there is no byte. -/
def State.memRead (s : State) (a : Nat) : Except Fault Byte :=
  if a < s.fbBytes then .ok (s.byteAt a) else .error (.noSuchByte a)

/-- `MemWrite(a, 1, v)` (00_scope.md section 5). -/
def State.memWrite (s : State) (a : Nat) (v : Byte) : Except Fault State :=
  if a < s.fbBytes then .ok { s with fb := s.fb.write a v } else .error (.noSuchByte a)

/-- Every byte of the framebuffer set to `b`, in canonical form (FILL's and CLEAR's loop, 40_framebuffer_ops.md R82, R83;
"the order of the byte writes cannot be observed"). -/
def State.fillBytes (s : State) (b : Byte) : State :=
  { s with fb := if b = Memory.unlisted then [] else (List.range s.fbBytes).map (fun a => (a, b)) }

/-- The framebuffer as a byte string in increasing address order, as a flush reads it (20_memory.md R45, R53). -/
def State.fbContents (s : State) : List Byte := (List.range s.fbBytes).map s.byteAt

/-! ### The framebuffer as nibbles (20_memory.md R43, R44) -/

/-- The nibble of `b` that holds pixel `idx`: bits 7:4 for an even index, 3:0 for an odd one (R43). -/
def nibbleOf (idx : Nat) (b : Byte) : Nibble :=
  if idx % 2 = 0 then b.extractLsb' 4 4 else b.extractLsb' 0 4

/-- `b` with the nibble of pixel `idx` replaced by `v` and the other kept (R44). -/
def withNibble (idx : Nat) (b : Byte) (v : Nibble) : Byte :=
  if idx % 2 = 0 then v ++ b.extractLsb' 0 4 else b.extractLsb' 4 4 ++ v

/-- `NibRead(idx)` (R43). -/
def State.nibRead (s : State) (idx : Nat) : Except Fault Nibble :=
  match s.memRead (idx / 2) with
  | .ok b => .ok (nibbleOf idx b)
  | .error f => .error f

/-- `NibWrite(idx, v)`: one byte read, one byte write of the same address (R44, R47). -/
def State.nibWrite (s : State) (idx : Nat) (v : Nibble) : Except Fault State :=
  match s.memRead (idx / 2) with
  | .ok b => s.memWrite (idx / 2) (withNibble idx b v)
  | .error f => .error f

/-- `NibWrite` at each index of a list, in order. -/
def State.nibWriteAll (s : State) : List Nat → Nibble → Except Fault State
  | [], _ => .ok s
  | idx :: rest, v =>
    match s.nibWrite idx v with
    | .ok s' => s'.nibWriteAll rest v
    | .error f => .error f

/-- The level of pixel `idx` as it stands, for any `idx`. -/
def State.pixelAt (s : State) (idx : Nat) : Nibble := nibbleOf idx (s.byteAt (idx / 2))

/-! ### The fault input (10_state.md R30) -/

/-- Fault sample number `n` since reset: constantly 0 under `NO_FAULTS`, else what the tape settles, else a free value. -/
def State.faultAt (s : State) (n : Nat) : Bool :=
  !s.env.noFaults && s.env.faultTape.getD n (Config.faultInput n)

/-- The sample `fault()` returns next. -/
def State.fault (s : State) : Bool := s.faultAt s.faultIx

/-- One sample has been taken. -/
def State.sampled (s : State) : State := { s with faultIx := s.faultIx + 1 }

/-! ### The trace (10_state.md R31) -/

/-- `emit e`: append `e` to `TRACE`. -/
def State.emit (s : State) (e : Event) : State := { s with trace := s.trace ++ [e] }

/-! ### The transmitter agent (42_pulse_ops.md R129) -/

/-- `tx_busy` (10_state.md R19). -/
def State.txBusy (s : State) : Bool :=
  match s.tx with
  | .idle => false
  | .running _ => true

/-- One step of the transmitter agent; it has none when `TX = Idle` (R129). -/
def State.txStep (s : State) : State :=
  match s.tx with
  | .idle => s
  | .running (g :: rest) => ({ s with pls := g.level, tx := .running rest }).emit (.seg g.level g.ticks)
  | .running [] => ({ s with pls := false, tx := .idle }).emit .txEnd

/-- `n` steps of the transmitter agent. -/
def State.txSteps : Nat → State → State
  | 0, s => s
  | n + 1, s => State.txSteps n s.txStep

/-- The number of transmitter steps at scheduling draw `n`: what the tape settles, else a free value. -/
def State.txDraw (s : State) (n : Nat) : Nat := s.env.txTape.getD n (Config.txSteps n)

/-- A point between two steps of the command agent: a running transmission takes any number of its steps here (60_exceptions.md
R169; 42_pulse_ops.md R126, R127). Nothing is drawn when the transmitter is idle. -/
def State.yield (s : State) : State :=
  match s.tx with
  | .idle => s
  | .running _ => State.txSteps (s.txDraw s.txIx) { s with txIx := s.txIx + 1 }

/-- The transmitter steps to the end of its transmission: `length(rest) + 1` of them (42_pulse_ops.md R131). -/
def State.drain (s : State) : State :=
  match s.tx with
  | .idle => s
  | .running rest => State.txSteps (rest.length + 1) s

/-! ### The lines and the reference receiver (10_state.md R20, R22) -/

/-- `Line(n) <- b`: the level register takes `b`, the event is recorded, and the reference receiver reacts to the edge, if
it is one: a rising `CLK` shifts `DATA` in at bit 0, a rising `STB` commits `SR` to `Q` (R22). -/
def State.setLine (s : State) (n : Line) (b : Bool) : State :=
  match n with
  | .data => ({ s with data := b }).emit (.line .data b)
  | .clk =>
    ({ s with
        clk := b
        sr := if b && !s.clk then s.sr.extractLsb' 0 7 ++ BitVec.ofBool s.data else s.sr }).emit
      (.line .clk b)
  | .stb =>
    ({ s with
        stb := b
        q := if b && !s.stb then s.sr else s.q }).emit
      (.line .stb b)

/-! ### The steps of a command, one after another (00_scope.md section 5; 60_exceptions.md R163) -/

/-- How the steps of a command stand: all done so far, ended by `raise K`, or held by a wait that is never lifted. -/
inductive Ending where
  | done
  | raised (k : ErrKind)
  | held
  deriving DecidableEq, Repr

/-- The state a command's steps have reached, and how they stand. -/
structure Run where
  state : State
  ending : Ending
  deriving DecidableEq, Repr

/-- The steps went through. -/
def State.done (s : State) : Run := ⟨s, .done⟩

/-- `raise K`: the command's steps end here, nothing done before is undone (R163). -/
def State.fail (s : State) (k : ErrKind) : Run := ⟨s, .raised k⟩

/-- `do` the next steps, unless an earlier one raised or is held (00_scope.md section 5, R147). -/
def Run.andThen (r : Run) (f : State → Run) : Run :=
  match r.ending with
  | .done => f r.state
  | .raised _ => r
  | .held => r

/-- `if fault() then raise K`, and go on in the state after the sample. -/
def State.unlessFault (s : State) (k : ErrKind) (f : State → Run) : Run :=
  if s.fault then s.sampled.fail k else f s.sampled

/-- `op(n, b)` of ShiftOut: the fault input is sampled before the line changes (41_config_register_ops.md R100). The
transmitter may step before it. -/
def State.lineOp (s : State) (n : Line) (b : Bool) : Run :=
  s.yield.unlessFault .peripheralFailure (fun t => (t.setLine n b).done)

/-- Line operations in program order (20_memory.md R51). -/
def State.lineOps (s : State) : List (Line × Bool) → Run
  | [] => s.done
  | (n, b) :: rest => (s.lineOp n b).andThen (fun t => t.lineOps rest)

/-- The three operations that shift one bit: clock low, data, clock high (41_config_register_ops.md R100). -/
def bitOps (b : Bool) : List (Line × Bool) := [(.clk, false), (.data, b), (.clk, true)]

/-- The 26 operations of `ShiftOut(v)`: strobe low, the bits from 7 down to 0, strobe high (R100, R110). -/
def shiftOps (v : Byte) : List (Line × Bool) :=
  (.stb, false) :: ([7, 6, 5, 4, 3, 2, 1, 0].flatMap (fun i => bitOps (v.getLsbD i)) ++ [(.stb, true)])

/-- The primitive `ShiftOut(v)` (R100). -/
def State.shiftOut (s : State) (v : Byte) : Run := s.lineOps (shiftOps v)

/-- `emit Settle(ms)`: the transmitter may step during it; it cannot fail and samples no fault (43_power_and_panel_ops.md
R144). -/
def State.settle (s : State) (ms : Nat) : State := s.yield.emit (.settle ms)

/-! ### How a command ends (10_state.md R11; 60_exceptions.md R163) -/

/-- `STATUS` and `RDATA` are written once, at the end of the command (R11). -/
def State.respond (s : State) (st : Status) (d : BitVec 56) : State := { s with status := st, rdata := d }

/-- TAKING AN ERROR: `STATUS` takes the kind and `RDATA` zero; no state is saved, no mode changes, and the block is ready
for the next command (60_exceptions.md R163, R168). There is no return from it (R164). -/
def State.raise (s : State) (k : ErrKind) : State := s.respond (.err k) 0#56

/-- The state a command of hardware steps leaves: its response, or the command agent held without one. -/
def Run.finish (r : Run) : State :=
  match r.ending with
  | .done => r.state.respond .ok 0#56
  | .raised k => r.state.raise k
  | .held => { r.state with held := true }

/-- A framebuffer command whose accesses went through responds `OK`. -/
def completed (r : Except Fault State) : Result :=
  match r with
  | .ok s => .next (s.respond .ok 0#56)
  | .error f => .fault f

end Sys2Proof.Machine
end

