-- ==== Sys2Proof/Machine/Operands.lean ====
section
/-! DEFINITION. From the fields of a command to the values its rule speaks of: coordinates, the linear pixel index, the
bounds checks, the level check, the pixels of a rectangle, the pulse program, the configuration byte (30_encoding.md R64). -/

namespace Sys2Proof.Machine

/-- `int(zext(field))`: the coordinate of SET_PIXEL, GET_PIXEL and FILL_RECT (30_encoding.md R64 (a)). -/
def unsignedCoord (v : BitVec 12) : Int := Int.ofNat v.toNat

/-- `int(sext(field))`: the coordinate of DRAW_PIXEL, -2048 to 2047 (R64 (b)). -/
def signedCoord (v : BitVec 12) : Int := v.toInt

/-- `InBounds(x, y)` on the integer values of the coordinates (20_memory.md R42). -/
def State.inBounds (s : State) (x y : Int) : Bool :=
  decide (0 ≤ x ∧ x < Int.ofNat s.width ∧ 0 ≤ y ∧ y < Int.ofNat s.height)

/-- The linear pixel index `y × WIDTH + x` of an in-bounds coordinate, on natural numbers (R41, R49). -/
def State.pixelIndex (s : State) (x y : Int) : Nat := y.toNat * s.width + x.toNat

/-- Whether a rectangle lies wholly in the panel; the sums are on natural numbers (40_framebuffer_ops.md R84). -/
def State.rectInBounds (s : State) (x y w h : BitVec 12) : Bool :=
  decide (x.toNat + w.toNat ≤ s.width ∧ y.toNat + h.toNat ≤ s.height)

/-- Whether a level is a gray level, 0 to 15 (30_encoding.md R64 (c)). -/
def levelOk (level : BitVec 8) : Bool := decide (level.toNat ≤ 15)

/-- `level[3:0]`, taken only after the check (40_framebuffer_ops.md R89). -/
def levelNibble (level : BitVec 8) : Nibble := level.extractLsb' 0 4

/-- `{level[3:0], level[3:0]}`, the packed byte of FILL (R82). -/
def packedLevel (level : BitVec 8) : Byte := levelNibble level ++ levelNibble level

/-- The linear indices of a rectangle's pixels, row after row (R84). -/
def State.rectPixels (s : State) (x y w h : BitVec 12) : List Nat :=
  (List.range h.toNat).flatMap (fun j =>
    (List.range w.toNat).map (fun i => (y.toNat + j) * s.width + (x.toNat + i)))

/-- `Build(high, low)`: the pulse program, a part of 0 ticks left out (42_pulse_ops.md R123). -/
def buildSegs (high low : BitVec 16) : List Seg :=
  (if high = 0#16 then [] else [⟨true, high⟩]) ++ (if low = 0#16 then [] else [⟨false, low⟩])

/-- What each configuration command makes of the intent byte (41_config_register_ops.md R102 to R107). -/
def cfgByte : CfgCommand → Byte → Byte
  | .enPwr, v => v ||| Config.maskPwr
  | .enVolt, v => v ||| Config.maskVolt
  | .enOut, v => v ||| Config.maskOe
  | .disOut, v => v &&& ~~~Config.maskOe
  | .disVolt, v => v &&& ~~~Config.maskVolt
  | .disPwr, v => v &&& ~~~Config.maskPwr

/-- The nominal duration of a segment, `t × TICK_NS` nanoseconds (42_pulse_ops.md R129); no rule uses it. -/
def Seg.nanos (g : Seg) : Nat := g.ticks.toNat * Config.tickNs

end Sys2Proof.Machine
end

