-- ==== Sys2Proof/Machine/Flags.lean ====
section
/-! DEFINITION. The block has no condition codes (10_state.md R24); its flag-like state is read out as codes and packed
words: the status code, the response word, and the `RDATA` of GET_PIXEL, BBOX and STAT (30_encoding.md R66). -/

namespace Sys2Proof.Machine

/-- The number of an error kind (60_exceptions.md R160). -/
def ErrKind.code : ErrKind → BitVec 8
  | .outOfBounds => 1#8
  | .invalidColor => 2#8
  | .hardware => 3#8
  | .peripheralFailure => 4#8
  | .channelOwnership => 5#8
  | .internal => 6#8
  | .illegalCommand => 7#8

/-- The status code, `OK` being 0 (R160). -/
def Status.code : Status → BitVec 8
  | .ok => 0#8
  | .err k => k.code

/-- The 2-bit value of `PWR` (10_state.md R17). -/
def PowerState.code : PowerState → BitVec 2
  | .off => 0#2
  | .on => 1#2
  | .pending => 2#2

/-- The bit of `SLOT` (10_state.md R18). -/
def Slot.bit : Slot → Bool
  | .empty => false
  | .present => true

/-- The response word `{STATUS[7:0], RDATA[55:0]}` (30_encoding.md R66). -/
def State.response (s : State) : Word := s.status.code ++ s.rdata

/-- `RDATA` of GET_PIXEL (R66). -/
def pixelData (v : Nibble) : BitVec 56 := 0#52 ++ v

/-- `RDATA` of BBOX: origin (0, 0), `WIDTH`, `HEIGHT` (R66; 40_framebuffer_ops.md R87). -/
def State.bboxData (s : State) : BitVec 56 :=
  0#8 ++ 0#12 ++ 0#12 ++ BitVec.ofNat 12 s.width ++ BitVec.ofNat 12 s.height

/-- `RDATA` of STAT: `{tx_busy, SLOT, PWR[1:0], CFG[7:0]}` (R66; 42_pulse_ops.md R132). -/
def State.statData (s : State) : BitVec 56 :=
  0#44 ++ BitVec.ofBool s.txBusy ++ BitVec.ofBool s.slot.bit ++ s.pwr.code ++ s.cfg

end Sys2Proof.Machine
end

