-- ==== Sys2Proof/Machine/ConfigReg.lean ====
section
/-! DEFINITION. The configuration-register commands EN_PWR, EN_VOLT, EN_OUT, DIS_OUT, DIS_VOLT, DIS_PWR
(41_config_register_ops.md): one new intent byte, then one ShiftOut of the whole byte. -/

namespace Sys2Proof.Machine

/-- The steps of a configuration command: `CFG` takes the new intent before the shifting starts and keeps it if the
ShiftOut raises (R109). No precondition is checked (R108). -/
def State.runCfg (s : State) (c : CfgCommand) : Run :=
  ({ s with cfg := cfgByte c s.cfg }).shiftOut (cfgByte c s.cfg)

/-- EN_PWR (R102). -/
def execEnPwr (s : State) : Result := .next (s.runCfg .enPwr).finish

/-- EN_VOLT (R103). -/
def execEnVolt (s : State) : Result := .next (s.runCfg .enVolt).finish

/-- EN_OUT (R104). -/
def execEnOut (s : State) : Result := .next (s.runCfg .enOut).finish

/-- DIS_OUT (R105). -/
def execDisOut (s : State) : Result := .next (s.runCfg .disOut).finish

/-- DIS_VOLT (R106). -/
def execDisVolt (s : State) : Result := .next (s.runCfg .disVolt).finish

/-- DIS_PWR (R107). -/
def execDisPwr (s : State) : Result := .next (s.runCfg .disPwr).finish

end Sys2Proof.Machine
end

