-- ==== Sys2Proof/Machine/Framebuffer.lean ====
section
/-! DEFINITION. The framebuffer commands SET_PIXEL, GET_PIXEL, FILL, CLEAR, FILL_RECT, DRAW_PIXEL, BBOX
(40_framebuffer_ops.md). They touch `FB` and the response registers only (R88). -/

namespace Sys2Proof.Machine

/-- What SET_PIXEL and DRAW_PIXEL do with an in-bounds coordinate: the level check, then one `NibWrite` (R80, R85). -/
def State.drawAt (s : State) (x y : Int) (level : BitVec 8) : Result :=
  if levelOk level then completed (s.nibWrite (s.pixelIndex x y) (levelNibble level))
  else .next (s.raise .invalidColor)

/-- SET_PIXEL: bounds first, then level, then the write (R80). -/
def execSetPixel (x y : BitVec 12) (level : BitVec 8) (s : State) : Result :=
  if s.inBounds (unsignedCoord x) (unsignedCoord y) then s.drawAt (unsignedCoord x) (unsignedCoord y) level
  else .next (s.raise .outOfBounds)

/-- GET_PIXEL: the level of an in-bounds pixel in `RDATA[3:0]` (R81). -/
def execGetPixel (x y : BitVec 12) (s : State) : Result :=
  if s.inBounds (unsignedCoord x) (unsignedCoord y) then
    match s.nibRead (s.pixelIndex (unsignedCoord x) (unsignedCoord y)) with
    | .ok v => .next (s.respond .ok (pixelData v))
    | .error f => .fault f
  else .next (s.raise .outOfBounds)

/-- FILL: every byte becomes `{level, level}` (R82). -/
def execFill (level : BitVec 8) (s : State) : Result :=
  if levelOk level then .next ((s.fillBytes (packedLevel level)).respond .ok 0#56)
  else .next (s.raise .invalidColor)

/-- CLEAR: every byte becomes `0xFF`; it always responds `OK` (R83). -/
def execClear (s : State) : Result := .next ((s.fillBytes 0xFF#8).respond .ok 0#56)

/-- FILL_RECT: a rectangle not wholly inside the panel is refused whole, then the level is checked, then each pixel is
written (R84). -/
def execFillRect (x y w h : BitVec 12) (level : BitVec 8) (s : State) : Result :=
  if s.rectInBounds x y w h then
    if levelOk level then completed (s.nibWriteAll (s.rectPixels x y w h) (levelNibble level))
    else .next (s.raise .invalidColor)
  else .next (s.raise .outOfBounds)

/-- DRAW_PIXEL: an out-of-bounds coordinate is skipped with `OK`; else as SET_PIXEL (R85). -/
def execDrawPixel (x y : BitVec 12) (level : BitVec 8) (s : State) : Result :=
  if s.inBounds (signedCoord x) (signedCoord y) then s.drawAt (signedCoord x) (signedCoord y) level
  else .next (s.respond .ok 0#56)

/-- BBOX: the panel rectangle, a constant of the instance (R87). -/
def execBbox (s : State) : Result := .next (s.respond .ok s.bboxData)

end Sys2Proof.Machine
end

