-- ==== Sys2Proof/Machine/Pulse.lean ====
section
/-! DEFINITION. The pulse commands PULSE and STAT (42_pulse_ops.md). -/

namespace Sys2Proof.Machine

/-- Step 1, Acquire: reuse a held channel, refuse while the earlier transmission plays, else construct (R122). -/
def State.acquire (s : State) : Run :=
  match s.slot with
  | .present => s.done
  | .empty =>
    if s.txBusy then s.fail .channelOwnership
    else s.unlessFault .peripheralFailure (fun t => ({ t with slot := .present }).done)

/-- Step 2, Build: the program goes to `PROG` (R123). -/
def State.build (s : State) (high low : BitVec 16) : State := { s with prog := buildSegs high low }

/-- Step 3, Start: the channel leaves the slot, then the transmission starts (R124). -/
def State.start (s : State) (segs : List Seg) : Run :=
  ({ s with slot := .empty }).unlessFault .peripheralFailure
    (fun t => (({ t with tx := .running segs }).emit (.txStart segs)).done)

/-- `wait until TX = Idle`: under the fairness assumption the transmitter agent steps to its end; without it, it takes a
free number of steps and the wait holds the command if that is not enough (R128, R131; U13). -/
def State.waitIdle (s : State) : Run :=
  let t := if s.env.fairTx then s.drain else s.yield
  match t.tx with
  | .idle => t.done
  | .running _ => ⟨t, .held⟩

/-- Step 4 of a waiting pulse: wait, then take the channel back (R128). -/
def State.waitAndReclaim (s : State) : Run :=
  s.waitIdle.andThen (fun t => t.unlessFault .internal (fun u => ({ u with slot := .present }).done))

/-- The four steps of PULSE (R120); a non-waiting pulse ends after Start (R127). -/
def State.runPulse (s : State) (high low : BitVec 16) (wait : Bool) : Run :=
  s.acquire.andThen (fun t =>
    ((t.build high low).start (buildSegs high low)).andThen (fun u =>
      if wait then u.waitAndReclaim else u.done))

/-- PULSE (R120); `high = low = 0` is the reserved operand value that no word decodes to (30_encoding.md R70). -/
def execPulse (high low : BitVec 16) (wait : Bool) (s : State) : Result :=
  if high = 0#16 ∧ low = 0#16 then .next (s.raise .illegalCommand)
  else .next (s.runPulse high low wait).finish

/-- STAT: the control state in `RDATA`; it changes nothing else (R132). -/
def execStat (s : State) : Result := .next (s.respond .ok s.statData)

end Sys2Proof.Machine
end

