-- ==== Sys2Proof/Machine/Power.lean ====
section
/-! DEFINITION. The power sequences and the panel commands POWER_ON, POWER_OFF, FLUSH, REPAIR
(43_power_and_panel_ops.md). -/

namespace Sys2Proof.Machine

/-- `do c ; emit Settle(ms)`: no settle follows a failed write (R140, R143). -/
def State.writeAndSettle (s : State) (c : CfgCommand) (ms : Nat) : Run :=
  (s.runCfg c).andThen (fun t => (t.settle ms).done)

/-- The steps of POWER_ON (R140); `PWR` stays `Pending` if a write raises (R143). -/
def State.runPowerOn (s : State) : Run :=
  match s.pwr with
  | .on => s.done
  | _ =>
    ((({ s with pwr := .pending }).writeAndSettle .enPwr Config.settlePwrMs).andThen (fun t =>
      t.writeAndSettle .enVolt Config.settleVoltMs)).andThen (fun t =>
      (t.writeAndSettle .enOut Config.settleOutMs).andThen (fun u => ({ u with pwr := .on }).done))

/-- The steps of POWER_OFF, the mirror order (R141). -/
def State.runPowerOff (s : State) : Run :=
  match s.pwr with
  | .off => s.done
  | _ =>
    ((({ s with pwr := .pending }).writeAndSettle .disOut Config.settleOutMs).andThen (fun t =>
      t.writeAndSettle .disVolt Config.settleVoltMs)).andThen (fun t =>
      (t.writeAndSettle .disPwr Config.settlePwrMs).andThen (fun u => ({ u with pwr := .off }).done))

/-- `do` one step of a schedule (R146). -/
def State.runStep (s : State) : SchedStep → Run
  | .pulse high low wait _ => s.runPulse high low wait
  | .cfg c => s.runCfg c
  | .settle ms => (s.settle ms).done
  | .bus tag => s.unlessFault .peripheralFailure (fun t => (t.emit (.bus tag)).done)

/-- A schedule, strictly in list order, ended by the first step that raises; the transmitter may step between two steps
(R147). -/
def State.runSched (s : State) : List SchedStep → Run
  | [] => s.done
  | st :: rest => (s.yield.runStep st).andThen (fun t => t.runSched rest)

/-- The steps of FLUSH: the power check before any side effect, then the schedule for the framebuffer as it is now
(R145). -/
def State.runFlush (s : State) (mode : DrawMode) : Run :=
  match s.pwr with
  | .on => s.runSched (Config.flushSched s.env.geom mode s.fbContents)
  | _ => s.fail .hardware

/-- The steps of REPAIR with the passes `sched`: power on, the passes, power off (R149). -/
def State.runRepairWith (s : State) (sched : List SchedStep) : Run :=
  (s.runPowerOn.andThen (fun t => t.runSched sched)).andThen (fun t => t.runPowerOff)

/-- POWER_ON (R140). -/
def execPowerOn (s : State) : Result := .next s.runPowerOn.finish

/-- POWER_OFF (R141). -/
def execPowerOff (s : State) : Result := .next s.runPowerOff.finish

/-- FLUSH (R145). -/
def execFlush (mode : DrawMode) (s : State) : Result := .next (s.runFlush mode).finish

/-- REPAIR (R149). -/
def execRepair (s : State) : Result := .next (s.runRepairWith (Config.repairSched s.env.geom)).finish

end Sys2Proof.Machine
end

