-- ==== Sys2Proof/Machine/Dispatch.lean ====
section
/-! DEFINITION. One arm per command of spec/opcode_table.json, each one direct call of its meaning. -/

namespace Sys2Proof.Machine

-- The command agent runs one command to its end (10_state.md R12).
def exec (i : Instr) (s : State) : Host.Outcome State Fault Refusal :=
  match i with
  | .setPixel x y level => Sys2Proof.Machine.execSetPixel x y level s
  | .getPixel x y => Sys2Proof.Machine.execGetPixel x y s
  | .fill level => Sys2Proof.Machine.execFill level s
  | .clear => Sys2Proof.Machine.execClear s
  | .fillRect x y w h level => Sys2Proof.Machine.execFillRect x y w h level s
  | .drawPixel x y level => Sys2Proof.Machine.execDrawPixel x y level s
  | .bbox => Sys2Proof.Machine.execBbox s
  | .enPwr => Sys2Proof.Machine.execEnPwr s
  | .enVolt => Sys2Proof.Machine.execEnVolt s
  | .enOut => Sys2Proof.Machine.execEnOut s
  | .disOut => Sys2Proof.Machine.execDisOut s
  | .disVolt => Sys2Proof.Machine.execDisVolt s
  | .disPwr => Sys2Proof.Machine.execDisPwr s
  | .pulse high low wait => Sys2Proof.Machine.execPulse high low wait s
  | .powerOn => Sys2Proof.Machine.execPowerOn s
  | .powerOff => Sys2Proof.Machine.execPowerOff s
  | .flush mode => Sys2Proof.Machine.execFlush mode s
  | .repair => Sys2Proof.Machine.execRepair s
  | .stat => Sys2Proof.Machine.execStat s

end Sys2Proof.Machine
end

