-- ==== Sys2Proof/Machine/Port.lean ====
section
/-! DEFINITION. The command port (30_encoding.md R60): one presented word decoded and run to its end, and what the block
does while no word is presented. -/

namespace Sys2Proof.Machine

/-- The state in which the next presented word, all but `rest` being done, is decoded: the host has handed it over, and a
running transmission may have stepped since the last command (10_state.md R12; 42_pulse_ops.md R127). -/
def State.accept (s : State) (rest : List Word) : State := ({ s with commands := rest }).yield

/-- One accepted word: its command runs, or the word is illegal and nothing but the response changes (30_encoding.md R68
to R71; 60_exceptions.md R166). -/
def execWord (w : Word) (s : State) : Result :=
  match decode w with
  | .ok i => exec i s
  | .error _ => .next (s.raise .illegalCommand)

/-- No word is presented: the transmitter agent takes its step if it has one, else the block waits as it is
(42_pulse_ops.md R129; 70_reset_and_hazards.md R192). -/
def State.unattended (s : State) : State := s.txStep

/-- The host presents `w` before the words it had still to present, and the command agent is free to take it. -/
def State.present (s : State) (w : Word) : State := { s with commands := w :: s.commands, held := false }

end Sys2Proof.Machine
end

