-- ==== Sys2Proof/Machine/Step.lean ====
section
/-! DEFINITION. One step of the machine: the next command of the host run to its end, or one step of the transmitter while
the host presents none. -/

namespace Sys2Proof.Machine

/-- A step. A command held in a wait that is never lifted keeps the machine where it is (42_pulse_ops.md R128, R131; U13);
else the next presented word is taken (30_encoding.md R60); else the transmitter steps alone (R129). -/
def step (s : State) : Host.Outcome State Fault Refusal :=
  match s.held, s.commands with
  | true, _ => .next s
  | false, [] => .next s.unattended
  | false, w :: rest => execWord w (s.accept rest)

/-- `s` with the word `w` of spec/opcode_table.json presented as the very next command. -/
def State.withFetchWord (s : State) (nbits w : Nat) : State := s.present (portWord nbits w)

end Sys2Proof.Machine
end

