-- ==== Sys2Proof/Machine/Pseudo.lean ====
section
/-! DEFINITION. The host-side pseudo-instructions DRAW_STREAM, DIMENSIONS, FORCE_OFF: the block sees only their expansion
(30_encoding.md R73; 40_framebuffer_ops.md R86). -/

namespace Sys2Proof.Machine

/-- A pseudo-instruction of the host (R73). A stream's pair is a signed coordinate and a colour. -/
inductive PseudoInstr where
  | drawStream (pairs : List (BitVec 12 × BitVec 12 × BitVec 8))
  | dimensions
  | forceOff
  deriving DecidableEq, Repr

/-- The commands a pseudo-instruction stands for, in the order they are issued (R73). -/
def expandPseudo : PseudoInstr → List Instr
  | .drawStream pairs => pairs.map (fun p => .drawPixel p.1 p.2.1 p.2.2)
  | .dimensions => [.bbox]
  | .forceOff => [.powerOff]

/-- Commands issued in order, stopping after the first response whose status is not `OK`; the answer is the state and the
outcome, that status or `OK` if all were `OK` (R73, R86). A running transmission may step between two commands. -/
def issueAll : List Instr → State → Host.Outcome (State × Status) Fault Refusal
  | [], s => .next (s, .ok)
  | i :: rest, s =>
    match exec i s.yield with
    | .next t => if t.status = .ok then issueAll rest t else .next (t, t.status)
    | .fault f => .fault f
    | .refused r => .refused r

/-- A pseudo-instruction run by the host (R73). -/
def runPseudo (p : PseudoInstr) (s : State) : Host.Outcome (State × Status) Fault Refusal := issueAll (expandPseudo p) s

/-- What DIMENSIONS keeps of BBOX's `RDATA`: width and height (R66, R73). -/
def dimensionsOf (rdata : BitVec 56) : Nat × Nat := ((rdata.extractLsb' 12 12).toNat, (rdata.extractLsb' 0 12).toNat)

end Sys2Proof.Machine
end

