-- ==== Sys2Proof/Safety.lean ====
section
/-! DEFINITION. What the claims are stated in: the invariant of the block, the reference receiver replayed from the trace,
the command agent's own events, quiescence, the rail order, safe schedules. -/

namespace Sys2Proof.Machine

/-- The eight reachable values of `CFG` (10_state.md R16). -/
def reachableCfg : List Byte := [0x00#8, 0x01#8, 0x04#8, 0x05#8, 0x18#8, 0x19#8, 0x1C#8, 0x1D#8]

/-- What holds at reset and after every step: the framebuffer is in canonical form and inside `0 .. FB_BYTES-1`; `CFG` is
one of its eight values (10_state.md R16); a held channel means an idle transmitter, and an idle transmitter a low `PLS`
(42_pulse_ops.md R130 (a), (c)); `PROG` has at most two segments of positive length (10_state.md R21); what is being played
is what is left of `PROG` (20_memory.md R52). -/
structure State.Inv (s : State) : Prop where
  fb_wf : s.fb.wf
  fb_in_range : ∀ c ∈ s.fb, c.1 < s.fbBytes
  cfg_reachable : s.cfg ∈ reachableCfg
  slot_tx : s.slot = .present → s.tx = .idle
  pls_low : s.tx = .idle → s.pls = false
  prog_short : s.prog.length ≤ 2
  prog_positive : ∀ g ∈ s.prog, g.ticks ≠ 0#16
  tx_of_prog : ∀ rest, s.tx = .running rest → rest <:+ s.prog

/-- The levels of the three configuration lines with the receiver they feed (10_state.md R20, R22). -/
structure Receiver where
  data : Bool
  clk : Bool
  stb : Bool
  sr : Byte
  q : Byte
  deriving DecidableEq, Repr

/-- The lines and the receiver as a state holds them. -/
def State.receiver (s : State) : Receiver := ⟨s.data, s.clk, s.stb, s.sr, s.q⟩

/-- The receiver of 10_state.md R22 reacting to one event of the trace, written from that rule alone: on a rising edge of
`CLK` it shifts `DATA` in, on a rising edge of `STB` it commits, on anything else it does not change. -/
def Receiver.react (r : Receiver) : Event → Receiver
  | .line .data b => { r with data := b }
  | .line .clk true => { r with clk := true, sr := if r.clk then r.sr else (r.sr <<< 1) ||| (BitVec.ofBool r.data).setWidth 8 }
  | .line .clk false => { r with clk := false }
  | .line .stb true => { r with stb := true, q := if r.stb then r.q else r.sr }
  | .line .stb false => { r with stb := false }
  | .settle _ => r
  | .txStart _ => r
  | .seg _ _ => r
  | .txEnd => r
  | .bus _ => r

/-- The receiver after a trace. -/
def Receiver.replay (r : Receiver) (t : List Event) : Receiver := t.foldl Receiver.react r

/-- The events of the command agent: all but the transmitter agent's `Seg` and `TxEnd` (10_state.md R31). -/
def Event.ofCommandAgent : Event → Bool
  | .seg _ _ => false
  | .txEnd => false
  | .line _ _ => true
  | .settle _ => true
  | .txStart _ => true
  | .bus _ => true

/-- The command agent's part of the trace, in order. -/
def State.commandTrace (s : State) : List Event := s.trace.filter Event.ofCommandAgent

/-- The first `n` fault samples from here on are all 0. -/
def State.NoFaultFor (s : State) (n : Nat) : Prop := ∀ k, k < n → s.faultAt (s.faultIx + k) = false

/-- No command is in progress and the transmitter is idle (70_reset_and_hazards.md R192). -/
def State.Quiescent (s : State) : Prop := s.held = false ∧ s.tx = .idle

/-- The rails are in legal order: outputs only with both voltages, voltages only with power (70_reset_and_hazards.md R186). -/
def railsInOrder (v : Byte) : Bool :=
  (!v.getLsbD 0 || (v.getLsbD 3 && v.getLsbD 4)) && (!(v.getLsbD 3 || v.getLsbD 4) || v.getLsbD 2)

/-- Whether a step of a schedule is a pulse, and if so a non-waiting one (43_power_and_panel_ops.md R146). -/
def isPulseStep : SchedStep → Bool
  | .pulse .. => true
  | .cfg _ => false
  | .settle _ => false
  | .bus _ => false

/-- A non-waiting pulse. -/
def isNonWaitingStep : SchedStep → Bool
  | .pulse _ _ wait _ => !wait
  | .cfg _ => false
  | .settle _ => false
  | .bus _ => false

/-- The sufficient condition of 43_power_and_panel_ops.md R147: no pulse step comes after a non-waiting one. -/
def noPulseAfterNonWaiting : List SchedStep → Bool
  | [] => true
  | st :: rest => (!isNonWaitingStep st || rest.all (fun t => !isPulseStep t)) && noPulseAfterNonWaiting rest

/-- The events of one completed ShiftOut of `v`, as 41_config_register_ops.md R110 lists them. -/
def writeEvents (v : Byte) : List Event :=
  [.line .stb false,
    .line .clk false, .line .data (v.getLsbD 7), .line .clk true,
    .line .clk false, .line .data (v.getLsbD 6), .line .clk true,
    .line .clk false, .line .data (v.getLsbD 5), .line .clk true,
    .line .clk false, .line .data (v.getLsbD 4), .line .clk true,
    .line .clk false, .line .data (v.getLsbD 3), .line .clk true,
    .line .clk false, .line .data (v.getLsbD 2), .line .clk true,
    .line .clk false, .line .data (v.getLsbD 1), .line .clk true,
    .line .clk false, .line .data (v.getLsbD 0), .line .clk true,
    .line .stb true]

/-- The command a schedule's `Cfg(c)` step names (43_power_and_panel_ops.md R146). -/
def cfgInstr : CfgCommand → Instr
  | .enPwr => .enPwr
  | .enVolt => .enVolt
  | .enOut => .enOut
  | .disOut => .disOut
  | .disVolt => .disVolt
  | .disPwr => .disPwr

/-- The intent byte after each configuration command, with the literals of 41_config_register_ops.md R102 to R107. -/
def intentAfter : CfgCommand → Byte → Byte
  | .enPwr, v => v ||| 0x04#8
  | .enVolt, v => v ||| 0x18#8
  | .enOut, v => v ||| 0x01#8
  | .disOut, v => v &&& 0xFE#8
  | .disVolt, v => v &&& 0xE7#8
  | .disPwr, v => v &&& 0xFB#8

/-- The framebuffer commands (40_framebuffer_ops.md R88). -/
def isFramebufferCommand : Instr → Bool
  | .setPixel .. => true
  | .getPixel .. => true
  | .fill _ => true
  | .clear => true
  | .fillRect .. => true
  | .drawPixel .. => true
  | .bbox => true
  | .enPwr => false
  | .enVolt => false
  | .enOut => false
  | .disOut => false
  | .disVolt => false
  | .disPwr => false
  | .pulse .. => false
  | .powerOn => false
  | .powerOff => false
  | .flush _ => false
  | .repair => false
  | .stat => false

/-- The error kinds each command may raise once it is decoded (60_exceptions.md R161). -/
def mayRaise : Instr → List ErrKind
  | .setPixel .. => [.outOfBounds, .invalidColor]
  | .getPixel .. => [.outOfBounds]
  | .fill _ => [.invalidColor]
  | .clear => []
  | .fillRect .. => [.outOfBounds, .invalidColor]
  | .drawPixel .. => [.invalidColor]
  | .bbox => []
  | .enPwr => [.peripheralFailure]
  | .enVolt => [.peripheralFailure]
  | .enOut => [.peripheralFailure]
  | .disOut => [.peripheralFailure]
  | .disVolt => [.peripheralFailure]
  | .disPwr => [.peripheralFailure]
  | .pulse _ _ wait =>
    if wait then [.channelOwnership, .peripheralFailure, .internal] else [.channelOwnership, .peripheralFailure]
  | .powerOn => [.peripheralFailure]
  | .powerOff => [.peripheralFailure]
  | .flush _ => [.hardware, .peripheralFailure, .channelOwnership, .internal]
  | .repair => [.peripheralFailure, .channelOwnership, .internal]
  | .stat => []

/-- The opcode bytes of 30_encoding.md R67 with the reserved bits R68 gives each command, as literals. -/
def reservedBits : List (Byte × Word) :=
  [(0x01#8, 0x00000000FFFFFF00#64), (0x02#8, 0x00000000FFFFFFFF#64), (0x03#8, 0x00FFFFFFFFFFFF00#64),
    (0x04#8, 0x00FFFFFFFFFFFFFF#64), (0x05#8, 0x0000000000000000#64), (0x06#8, 0x00000000FFFFFF00#64),
    (0x07#8, 0x00FFFFFFFFFFFFFF#64)]
  ++ [0x10#8, 0x11#8, 0x12#8, 0x13#8, 0x14#8, 0x15#8].map (fun b => (b, 0x00FFFFFFFFFFFFFF#64))
  ++ [(0x20#8, 0x00000000007FFFFF#64), (0x30#8, 0x00FFFFFFFFFFFFFF#64), (0x31#8, 0x00FFFFFFFFFFFFFF#64),
    (0x32#8, 0x00FFFFFFFFFFFFFC#64), (0x33#8, 0x00FFFFFFFFFFFFFF#64), (0x3F#8, 0x00FFFFFFFFFFFFFF#64)]

/-- What an illegal word leaves: the response `IllegalCommand`, nothing else changed (60_exceptions.md R166). -/
def State.illegal (s : State) : State := { s with status := .err .illegalCommand, rdata := 0#56 }

/-- What a transmission appends to the trace from its start to its end marker (42_pulse_ops.md R124, R129). -/
def playEvents (segs : List Seg) : List Event :=
  .txStart segs :: segs.map (fun g => .seg g.level g.ticks) ++ [.txEnd]

/-- How many fault samples Acquire takes when the transmitter is idle: one where it constructs (42_pulse_ops.md R122). -/
def State.constructSamples (s : State) : Nat :=
  match s.slot with
  | .present => 0
  | .empty => 1

/-- The level a drawing stream leaves in pixel `j`: that of its last in-bounds pair at `j`, else the level before
(40_framebuffer_ops.md R85, R86). -/
def streamPixel (g : Geometry) (j : Nat) : List (BitVec 12 × BitVec 12 × BitVec 8) → Nibble → Nibble
  | [], v => v
  | (x, y, level) :: rest, v =>
    streamPixel g j rest
      (if 0 ≤ x.toInt ∧ x.toInt < g.width ∧ 0 ≤ y.toInt ∧ y.toInt < g.height ∧
          y.toInt.toNat * g.width + x.toInt.toNat = j
        then level.setWidth 4 else v)

/-- The command agent's events of a complete up sequence from the intent byte `v` (43_power_and_panel_ops.md R140). -/
def upEvents (v : Byte) : List Event :=
  writeEvents (v ||| 0x04#8) ++ [.settle 10] ++ writeEvents (v ||| 0x1C#8) ++ [.settle 20] ++
    writeEvents (v ||| 0x1D#8) ++ [.settle 5]

/-- The command agent's events of a complete down sequence from the intent byte `v` (R141). -/
def downEvents (v : Byte) : List Event :=
  writeEvents (v &&& 0xFE#8) ++ [.settle 5] ++ writeEvents (v &&& 0xE6#8) ++ [.settle 20] ++
    writeEvents (v &&& 0xE2#8) ++ [.settle 10]

end Sys2Proof.Machine
end

