-- ==== Sys2Proof/Certificates/Slice0/Obligations.lean ====
section
/-! DEFINITION. The statements put to the provers, one `def Obligations.<Name> : Prop` each, from the numbered rules of the
spec. The rule a statement rests on is named in its docstring. A statement about an open value holds whatever that value
is. -/

open Sys2Proof Sys2Proof.Machine

/-! ### Encoding (30_encoding.md) -/

/-- R61 to R65: decoding the word of a well-formed command gives it back, every operand at every value of its field. -/
def Obligations.DecodeOfEncode : Prop :=
  ∀ i : Instr, i.WellFormed → decode (encode i) = .ok i

/-- R61 to R71: a word that decodes is the word of its command, bit for bit, and the command is well-formed. -/
def Obligations.EncodeOfDecode : Prop :=
  ∀ (w : Word) (i : Instr), decode w = .ok i → encode i = w ∧ i.WellFormed

/-- R69: a word whose opcode is none of the 19 changes nothing but the response, which is `IllegalCommand`. -/
def Obligations.UndefinedOpcodeIsIllegal : Prop :=
  ∀ (w : Word) (s : State), (∀ p ∈ reservedBits, w.extractLsb' 56 8 ≠ p.1) →
    execWord w s = .next s.illegal ∧ s.illegal.response = 0x0700000000000000#64

/-- R68: a word of a defined opcode with a reserved bit that is 1 changes nothing but the response. -/
def Obligations.ReservedBitIsIllegal : Prop :=
  ∀ (w : Word) (s : State), ∀ p ∈ reservedBits, w.extractLsb' 56 8 = p.1 → w &&& p.2 ≠ 0#64 →
    execWord w s = .next s.illegal ∧ s.illegal.response = 0x0700000000000000#64

/-- R70: FLUSH with mode 3, and PULSE with both durations 0, are illegal in the same way. -/
def Obligations.ReservedOperandIsIllegal : Prop :=
  ∀ (w : Word) (s : State),
    (w.extractLsb' 56 8 = 0x32#8 ∧ w.extractLsb' 0 2 = 3#2) ∨
      (w.extractLsb' 56 8 = 0x20#8 ∧ w.extractLsb' 40 16 = 0#16 ∧ w.extractLsb' 24 16 = 0#16) →
    execWord w s = .next s.illegal ∧ s.illegal.response = 0x0700000000000000#64

/-- R62 to R65, R67: words written out from the fields of the formats decode to the commands they stand for (the last two
decode to none). -/
def Obligations.HandWrittenWordsDecode : Prop :=
  decode 0x0100100000000005#64 = .ok (.setPixel 1#12 0#12 5#8) ∧
    decode 0x050C80C806403208#64 = .ok (.fillRect 200#12 200#12 100#12 50#12 8#8) ∧
    decode 0x06FFF00000000005#64 = .ok (.drawPixel 0xFFF#12 0#12 5#8) ∧
    decode 0x1100000000000000#64 = .ok .enVolt ∧
    decode 0x20000A0014800000#64 = .ok (.pulse 10#16 20#16 true) ∧
    decode 0x3200000000000001#64 = .ok (.flush .whiteOnBlack) ∧
    decode 0x3F00000000000000#64 = .ok .stat ∧
    decode 0x0000000000000000#64 = .error .undefinedOpcode ∧
    decode 0x1000000000000001#64 = .error .reservedBit

/-! ### The step and the reset (10_state.md, 30_encoding.md R60, 70_reset_and_hazards.md) -/

/-- R12, R60, R71: where the host presents a word, a step hands it over, lets a running transmission step (nothing where it is
idle), and runs the word: `exec` of the command it decodes to, or, where it decodes to none, nothing but the response
`IllegalCommand`. The presented words and the scheduling point are the model's (notes/assumptions/3.md, 7.md). -/
def Obligations.StepRunsTheDecodedCommand : Prop :=
  ∀ (s : State) (w : Word) (rest : List Word), s.held = false → s.commands = w :: rest →
    step s = execWord w (s.accept rest) ∧
      (∀ i, decode w = .ok i → step s = exec i (s.accept rest)) ∧
      (∀ e, decode w = .error e → step s = .next (s.accept rest).illegal) ∧
      (∃ n k, s.accept rest = State.txSteps n { s with commands := rest, txIx := k }) ∧
      (s.tx = .idle → s.accept rest = { s with commands := rest })

/-- The model's own rendering (notes/assumptions/4.md, 7.md, 8.md): with no word presented a step is one step of the
transmitter, and a command held for ever keeps the machine where it is. -/
def Obligations.StepWithoutCommand : Prop :=
  ∀ s : State, (s.held = false → s.commands = [] → step s = .next s.txStep) ∧ (s.held = true → step s = .next s)

/-- R14, R16 to R21, R31, R32: what reset leaves, `SR` and `Q` apart; the geometry is the default instance of R1, R2. -/
def Obligations.ResetLeavesTheTableValues : Prop :=
  (∀ a, a < State.reset.fbBytes → State.reset.byteAt a = 0xFF#8) ∧ State.reset.cfg = 0x00#8 ∧
    State.reset.pwr = .off ∧ State.reset.slot = .empty ∧ State.reset.tx = .idle ∧ State.reset.prog = [] ∧
    State.reset.data = false ∧ State.reset.clk = false ∧ State.reset.stb = true ∧ State.reset.pls = false ∧
    State.reset.response = 0#64 ∧ State.reset.trace = [] ∧ State.reset.width = 960 ∧ State.reset.height = 540 ∧
    State.reset.fbBytes = 259200

/-- The invariant of the block holds at reset. -/
def Obligations.ResetMeetsTheInvariant : Prop := State.reset.Inv

/-- R16, R21, R52, R130: every step keeps the invariant of the block. -/
def Obligations.StepKeepsTheInvariant : Prop :=
  ∀ s t : State, s.Inv → step s = .next t → t.Inv

/-- R20, R22, R31: the lines and the receiver are what the receiver of R22 makes of the trace, from any start on. -/
def Obligations.ReceiverFollowsTheTrace : Prop :=
  ∀ (s t : State) (r : Receiver), r.replay s.trace = s.receiver → step s = .next t → r.replay t.trace = t.receiver

/-- R26, R31: no step changes a parameter of the instance, and the trace only grows. -/
def Obligations.TraceOnlyGrowsAndParametersStay : Prop :=
  ∀ s t : State, step s = .next t → s.trace <+: t.trace ∧ t.env = s.env

/-- R42, R170: in every state every command answers a next state: no access leaves the framebuffer, nothing is refused. Two
cases of it are the model's choice: a waiting PULSE (or a FLUSH or REPAIR with one) on a transmitter that never ends, which by
R131, R152 and U13 never returns, answers the state in which it is held (notes/assumptions/4.md); the term `PULSE 0, 0`, which no
word decodes to, answers `IllegalCommand` (notes/assumptions/9.md). -/
def Obligations.EveryCommandRuns : Prop :=
  ∀ (i : Instr) (s : State), ∃ t, exec i s = .next t

/-! ### Whole-machine rules -/

/-- R17: `PWR` is written by POWER_ON, POWER_OFF and REPAIR only. -/
def Obligations.PowerStateWrittenByThreeCommands : Prop :=
  ∀ (i : Instr) (s t : State), i ≠ .powerOn → i ≠ .powerOff → i ≠ .repair → exec i s = .next t → t.pwr = s.pwr

/-- R88, R121, R132: the framebuffer commands, PULSE and STAT leave `CFG`, the configuration lines and the receiver alone. -/
def Obligations.IntentWrittenByRegisterCommands : Prop :=
  ∀ (i : Instr) (s t : State), (isFramebufferCommand i = true ∨ (∃ h l w, i = .pulse h l w) ∨ i = .stat) →
    exec i s = .next t → t.cfg = s.cfg ∧ t.receiver = s.receiver

/-- R18, R21: `SLOT` and `PROG` change in PULSE, FLUSH and REPAIR only. -/
def Obligations.ChannelWrittenByPulseOnly : Prop :=
  ∀ (i : Instr) (s t : State), (∀ h l w, i ≠ .pulse h l w) → (∀ m, i ≠ .flush m) → i ≠ .repair →
    exec i s = .next t → t.slot = s.slot ∧ t.prog = s.prog

/-- R13, R47, R148, R149: no byte of the framebuffer changes but in SET_PIXEL, FILL, CLEAR, FILL_RECT and DRAW_PIXEL. -/
def Obligations.FramebufferWrittenByFiveCommands : Prop :=
  ∀ (i : Instr) (s t : State), (∀ x y l, i ≠ .setPixel x y l) → (∀ l, i ≠ .fill l) → i ≠ .clear →
    (∀ x y w h l, i ≠ .fillRect x y w h l) → (∀ x y l, i ≠ .drawPixel x y l) → exec i s = .next t →
    t.fb = s.fb ∧ ∀ a, t.byteAt a = s.byteAt a

/-- R66, R168: `RDATA` of a completed command is zero unless its status is `OK` and it is GET_PIXEL, BBOX or STAT. -/
def Obligations.OnlyReadingCommandsReturnData : Prop :=
  ∀ (i : Instr) (s t : State), exec i s = .next t → t.held = false →
    t.status ≠ .ok ∨ ((∀ x y, i ≠ .getPixel x y) ∧ i ≠ .bbox ∧ i ≠ .stat) → t.rdata = 0#56

/-- R161: a well-formed command that completes with an error reports a kind that is listed for it. -/
def Obligations.ErrorKindsPerCommand : Prop :=
  ∀ (i : Instr) (s t : State) (k : ErrKind), i.WellFormed → exec i s = .next t → t.held = false →
    t.status = .err k → k ∈ mayRaise i

/-- R88, R169: a framebuffer command and a step of the transmitter may be taken in either order. -/
def Obligations.FramebufferCommutesWithTransmitter : Prop :=
  ∀ (i : Instr) (s t : State), isFramebufferCommand i = true → exec i s = .next t → exec i s.txStep = .next t.txStep

/-! ### Framebuffer commands (20_memory.md, 40_framebuffer_ops.md) -/

/-- R43: `NibRead` of a pixel is the high nibble of its byte for an even index, the low one for an odd index. -/
def Obligations.NibbleReadPicksItsHalf : Prop :=
  ∀ (s : State) (idx : Nat), idx < s.env.geom.npix →
    (idx % 2 = 0 → s.nibRead idx = .ok ((s.byteAt (idx / 2)).extractLsb' 4 4)) ∧
      (idx % 2 = 1 → s.nibRead idx = .ok ((s.byteAt (idx / 2)).extractLsb' 0 4))

/-- R44: `NibWrite` goes through, its pixel then reads as the value, the other nibble of its byte and every other byte are
unchanged, and nothing but the framebuffer changes. -/
def Obligations.NibbleWriteIsExact : Prop :=
  ∀ (s : State) (idx : Nat) (v : Nibble), idx < s.env.geom.npix →
    ∃ t, s.nibWrite idx v = .ok t ∧ t = { s with fb := t.fb } ∧ t.nibRead idx = .ok v ∧
      (idx % 2 = 0 → t.byteAt (idx / 2) = v ++ (s.byteAt (idx / 2)).extractLsb' 0 4) ∧
      (idx % 2 = 1 → t.byteAt (idx / 2) = (s.byteAt (idx / 2)).extractLsb' 4 4 ++ v) ∧
      t.pixelAt (idx ^^^ 1) = s.pixelAt (idx ^^^ 1) ∧ ∀ a, a ≠ idx / 2 → t.byteAt a = s.byteAt a

/-- R80: SET_PIXEL checks bounds, then the level, then writes its one pixel and nothing else. -/
def Obligations.SetPixelWritesOnePixel : Prop :=
  ∀ (x y : BitVec 12) (level : BitVec 8) (s : State),
    if s.width ≤ x.toNat ∨ s.height ≤ y.toNat then
      exec (.setPixel x y level) s = .next { s with status := .err .outOfBounds, rdata := 0#56 }
    else if 15 < level.toNat then
      exec (.setPixel x y level) s = .next { s with status := .err .invalidColor, rdata := 0#56 }
    else
      ∃ t, exec (.setPixel x y level) s = .next t ∧ t = { s with fb := t.fb, status := .ok, rdata := 0#56 } ∧
        t.pixelAt (y.toNat * s.width + x.toNat) = level.extractLsb' 0 4 ∧
        (∀ j, j ≠ y.toNat * s.width + x.toNat → t.pixelAt j = s.pixelAt j) ∧
        ∀ a, a ≠ (y.toNat * s.width + x.toNat) / 2 → t.byteAt a = s.byteAt a

/-- R81: GET_PIXEL returns the level of its pixel and changes nothing but the response. -/
def Obligations.GetPixelReadsOnePixel : Prop :=
  ∀ (x y : BitVec 12) (s : State),
    if s.width ≤ x.toNat ∨ s.height ≤ y.toNat then
      exec (.getPixel x y) s = .next { s with status := .err .outOfBounds, rdata := 0#56 }
    else
      exec (.getPixel x y) s =
        .next { s with status := .ok, rdata := (s.pixelAt (y.toNat * s.width + x.toNat)).setWidth 56 }

/-- R82: FILL checks the level (the spec's inference, D37), then makes every byte of the framebuffer `level × 0x11`. -/
def Obligations.FillReplicatesTheLevel : Prop :=
  ∀ (level : BitVec 8) (s : State),
    if 15 < level.toNat then
      exec (.fill level) s = .next { s with status := .err .invalidColor, rdata := 0#56 }
    else
      ∃ t, exec (.fill level) s = .next t ∧ t = { s with fb := t.fb, status := .ok, rdata := 0#56 } ∧
        ∀ a, a < s.fbBytes → (t.byteAt a).toNat = level.toNat * 0x11

/-- R83: CLEAR responds `OK`, makes every byte of the framebuffer `0xFF`, and ends as `FILL 15` does. -/
def Obligations.ClearWhitensTheFramebuffer : Prop :=
  ∀ s : State, exec .clear s = exec (.fill 15#8) s ∧
    ∃ t, exec .clear s = .next t ∧ t = { s with fb := t.fb, status := .ok, rdata := 0#56 } ∧
      ∀ a, a < s.fbBytes → t.byteAt a = 0xFF#8

/-- R84: FILL_RECT refuses a rectangle that is not wholly inside, then checks the level, then sets the rectangle's pixels
and no other. -/
def Obligations.FillRectSetsItsPixels : Prop :=
  ∀ (x y w h : BitVec 12) (level : BitVec 8) (s : State),
    if s.width < x.toNat + w.toNat ∨ s.height < y.toNat + h.toNat then
      exec (.fillRect x y w h level) s = .next { s with status := .err .outOfBounds, rdata := 0#56 }
    else if 15 < level.toNat then
      exec (.fillRect x y w h level) s = .next { s with status := .err .invalidColor, rdata := 0#56 }
    else
      ∃ t, exec (.fillRect x y w h level) s = .next t ∧ t = { s with fb := t.fb, status := .ok, rdata := 0#56 } ∧
        (∀ xx yy, x.toNat ≤ xx → xx < x.toNat + w.toNat → y.toNat ≤ yy → yy < y.toNat + h.toNat →
          t.pixelAt (yy * s.width + xx) = level.extractLsb' 0 4) ∧
        (∀ j, (∀ xx yy, x.toNat ≤ xx → xx < x.toNat + w.toNat → y.toNat ≤ yy → yy < y.toNat + h.toNat →
          j ≠ yy * s.width + xx) → t.pixelAt j = s.pixelAt j) ∧
        ∀ a, (∀ xx yy, x.toNat ≤ xx → xx < x.toNat + w.toNat → y.toNat ≤ yy → yy < y.toNat + h.toNat →
          a ≠ (yy * s.width + xx) / 2) → t.byteAt a = s.byteAt a

/-- R85: DRAW_PIXEL skips an out-of-bounds coordinate with `OK`, and else does what SET_PIXEL does. -/
def Obligations.DrawPixelSkipsOutOfBounds : Prop :=
  ∀ (x y : BitVec 12) (level : BitVec 8) (s : State),
    if 0 ≤ x.toInt ∧ x.toInt < s.width ∧ 0 ≤ y.toInt ∧ y.toInt < s.height then
      if 15 < level.toNat then
        exec (.drawPixel x y level) s = .next { s with status := .err .invalidColor, rdata := 0#56 }
      else
        ∃ t, exec (.drawPixel x y level) s = .next t ∧ t = { s with fb := t.fb, status := .ok, rdata := 0#56 } ∧
          t.pixelAt (y.toInt.toNat * s.width + x.toInt.toNat) = level.extractLsb' 0 4 ∧
          (∀ j, j ≠ y.toInt.toNat * s.width + x.toInt.toNat → t.pixelAt j = s.pixelAt j) ∧
          ∀ a, a ≠ (y.toInt.toNat * s.width + x.toInt.toNat) / 2 → t.byteAt a = s.byteAt a
    else exec (.drawPixel x y level) s = .next { s with status := .ok, rdata := 0#56 }

/-- R66, R87: BBOX answers origin (0, 0), `WIDTH` in bits 23:12 and `HEIGHT` in bits 11:0, and changes nothing else. -/
def Obligations.BboxReportsThePanel : Prop :=
  ∀ s : State, ∃ d : BitVec 56, exec .bbox s = .next { s with status := .ok, rdata := d } ∧
    d.toNat = s.width * 2 ^ 12 + s.height ∧ dimensionsOf d = (s.width, s.height)

/-- R88: a framebuffer command touches `FB` and the response registers only, leaves `FB` alone when it raises, and reads `FB`
and the instance alone: in any other state `u` with the same `FB` and the same instance, whatever `CFG`, `PWR`, `SLOT`, `TX`,
`PROG`, the lines, the response registers and all else hold, it leaves the same `FB` and gives the same response. -/
def Obligations.FramebufferCommandsTouchMemoryOnly : Prop :=
  ∀ (i : Instr) (s : State), isFramebufferCommand i = true →
    ∃ t, exec i s = .next t ∧ t = { s with fb := t.fb, status := t.status, rdata := t.rdata } ∧
      (t.status ≠ .ok → t.fb = s.fb) ∧
      ∀ u : State, u.env = s.env → u.fb = s.fb →
        exec i u = .next { u with fb := t.fb, status := t.status, rdata := t.rdata }

/-- R86: a drawing stream of gray levels completes with `OK`, having written exactly its in-bounds pixels; a stream that
meets an in-bounds pair with a level above 15 ends there with `InvalidColor`, what was drawn before it kept. -/
def Obligations.DrawingStreamClipsAndAborts : Prop :=
  ∀ (pairs : List (BitVec 12 × BitVec 12 × BitVec 8)) (s : State), (∀ p ∈ pairs, p.2.2.toNat ≤ 15) →
    ∃ t, runPseudo (.drawStream pairs) s = .next (t, .ok) ∧
      (∀ j, t.pixelAt j = streamPixel s.env.geom j pairs (s.pixelAt j)) ∧
      ∀ (x y : BitVec 12) (level : BitVec 8) (later : List (BitVec 12 × BitVec 12 × BitVec 8)),
        0 ≤ x.toInt → x.toInt < s.width → 0 ≤ y.toInt → y.toInt < s.height → 15 < level.toNat →
        ∃ u, runPseudo (.drawStream (pairs ++ (x, y, level) :: later)) s = .next (u, .err .invalidColor) ∧ u.fb = t.fb

/-! ### Configuration-register commands (41_config_register_ops.md) -/

/-- R100 and the spec's inferences R101, R110: a ShiftOut that completes leaves `SR = v` and `Q = v` whatever they held, its events are the list of R110,
and `Q` is the old byte until the last of them. -/
def Obligations.CompletedShiftCommitsTheByte : Prop :=
  ∀ (s : State) (v : Byte), (s.shiftOut v).ending = .done →
    (s.shiftOut v).state.sr = v ∧ (s.shiftOut v).state.q = v ∧ (s.shiftOut v).state.stb = true ∧
      (s.shiftOut v).state.clk = true ∧ (s.shiftOut v).state.data = v.getLsbD 0 ∧
      (s.shiftOut v).state.commandTrace = s.commandTrace ++ writeEvents v ∧
      ∀ n, n < 26 → (s.receiver.replay ((writeEvents v).take n)).q = s.q

/-- R111, the spec's inference: a ShiftOut whose operation `k` meets a fault has done operations 1 to `k - 1` and nothing else: `SR` has taken
`(k - 2) div 3` shifts, `Q` is unchanged, the strobe is low from `k = 2` on; the next ShiftOut that completes repairs it. -/
def Obligations.FailedShiftLeavesLatchesAlone : Prop :=
  ∀ (s : State) (v : Byte) (k : Nat), 1 ≤ k → k ≤ 26 → s.NoFaultFor (k - 1) → s.faultAt (s.faultIx + (k - 1)) = true →
    (s.shiftOut v).ending = .raised .peripheralFailure ∧
      (s.shiftOut v).state.commandTrace = s.commandTrace ++ (writeEvents v).take (k - 1) ∧
      (s.shiftOut v).state.receiver = s.receiver.replay ((writeEvents v).take (k - 1)) ∧
      (s.shiftOut v).state.sr.toNat = (s.sr.toNat * 2 ^ ((k - 2) / 3) + v.toNat / 2 ^ (8 - (k - 2) / 3)) % 256 ∧
      (s.shiftOut v).state.q = s.q ∧ (2 ≤ k → (s.shiftOut v).state.stb = false) ∧
      ∀ u, ((s.shiftOut v).state.shiftOut u).ending = .done →
        ((s.shiftOut v).state.shiftOut u).state.sr = u ∧ ((s.shiftOut v).state.shiftOut u).state.q = u

/-- R102 to R107, R109, R110: where no sample of the 26 is 1, each configuration command stores its new intent byte, shifts
the whole byte out once, whatever the lines held, and leaves everything else alone; the transmitter goes on as it may. -/
def Obligations.RegisterCommandShiftsWholeByte : Prop :=
  ∀ (c : CfgCommand) (s : State), s.NoFaultFor 26 →
    ∃ t, exec (cfgInstr c) s = .next t ∧ t.cfg = intentAfter c s.cfg ∧
      t.commandTrace = s.commandTrace ++ writeEvents (intentAfter c s.cfg) ∧
      t.sr = intentAfter c s.cfg ∧ t.q = intentAfter c s.cfg ∧
      t.stb = true ∧ t.clk = true ∧ t.data = (intentAfter c s.cfg).getLsbD 0 ∧
      t.status = .ok ∧ t.rdata = 0#56 ∧ t.faultIx = s.faultIx + 26 ∧
      t.env = s.env ∧ t.commands = s.commands ∧ t.held = s.held ∧ t.fb = s.fb ∧ t.pwr = s.pwr ∧ t.slot = s.slot ∧
      t.prog = s.prog ∧ (∃ n, t.tx = (State.txSteps n s).tx ∧ t.pls = (State.txSteps n s).pls) ∧
      (s.tx = .idle → t.txIx = s.txIx ∧ t.trace = s.trace ++ writeEvents (intentAfter c s.cfg))

/-- R109: in every run `CFG` holds the new intent at the end, and what was shifted out is a beginning of the one write of
that whole byte; either the write completed and `Q` is that byte, or the command reports `PeripheralFailure` and `Q` is the
old byte; the frame is the same. -/
def Obligations.IntentIsKeptWhenTheWriteFails : Prop :=
  ∀ (c : CfgCommand) (s : State), ∃ t n, exec (cfgInstr c) s = .next t ∧ t.cfg = intentAfter c s.cfg ∧ t.rdata = 0#56 ∧
    t.commandTrace = s.commandTrace ++ (writeEvents (intentAfter c s.cfg)).take n ∧
    ((t.status = .ok ∧ n = 26 ∧ t.q = intentAfter c s.cfg) ∨
      (t.status = .err .peripheralFailure ∧ n < 26 ∧ t.q = s.q)) ∧
    t.fb = s.fb ∧ t.pwr = s.pwr ∧ t.slot = s.slot ∧ t.prog = s.prog ∧ t.held = s.held

/-- R108: the six commands check no precondition and neither read nor write `PWR`, `SLOT` and `PROG`: they leave them as they
were, and other values there change nothing else; they do not write `TX`: it and `PLS` move by some number of the transmitter's
own steps, in a failed write too; and they do not read it: another `TX` changes nothing of what the command does, its intent,
its status, its events, the lines and the receiver. -/
def Obligations.RegisterCommandsIgnorePowerAndChannel : Prop :=
  ∀ (c : CfgCommand) (s t : State) (p : PowerState) (sl : Slot) (pr : List Seg) (tx : Tx), exec (cfgInstr c) s = .next t →
    (t.pwr = s.pwr ∧ t.slot = s.slot ∧ t.prog = s.prog) ∧
      (∃ n, t.tx = (State.txSteps n s).tx ∧ t.pls = (State.txSteps n s).pls) ∧
      exec (cfgInstr c) { s with pwr := p, slot := sl, prog := pr } = .next { t with pwr := p, slot := sl, prog := pr } ∧
      ∃ u, exec (cfgInstr c) { s with tx := tx } = .next u ∧ u.cfg = t.cfg ∧ u.status = t.status ∧
        u.commandTrace = t.commandTrace ∧ u.receiver = t.receiver ∧ u.faultIx = t.faultIx

/-! ### The pulse channel (42_pulse_ops.md) -/

/-- R123: the pulse program has a high part where `high > 0` and a low part where `low > 0`, in this order; building it writes
`PROG` and nothing else. -/
def Obligations.PulseProgramHasItsParts : Prop :=
  ∀ (high low : BitVec 16) (s : State), s.build high low = { s with prog := buildSegs high low } ∧
    (high ≠ 0#16 → low ≠ 0#16 → buildSegs high low = [⟨true, high⟩, ⟨false, low⟩]) ∧
      (high ≠ 0#16 → low = 0#16 → buildSegs high low = [⟨true, high⟩]) ∧
      (high = 0#16 → low ≠ 0#16 → buildSegs high low = [⟨false, low⟩])

/-- R122: Acquire reuses a held channel without a sample, is refused with no effect while the earlier transmission plays, and
else takes one sample: on 1 it fails with the slot still empty, on 0 the slot is filled. -/
def Obligations.AcquireFollowsItsBranches : Prop :=
  ∀ s : State,
    (s.slot = .present → s.acquire = ⟨s, .done⟩) ∧
    (s.slot = .empty → s.tx ≠ .idle → s.acquire = ⟨s, .raised .channelOwnership⟩) ∧
    (s.slot = .empty → s.tx = .idle → s.fault = true →
      s.acquire = ⟨{ s with faultIx := s.faultIx + 1 }, .raised .peripheralFailure⟩) ∧
    (s.slot = .empty → s.tx = .idle → s.fault = false →
      s.acquire = ⟨{ s with slot := .present, faultIx := s.faultIx + 1 }, .done⟩)

/-- R124: Start empties the slot, then takes one sample: on 1 nothing is played and `TX` is as it was, on 0 the transmission
runs and its event is recorded. -/
def Obligations.StartEmptiesTheSlotFirst : Prop :=
  ∀ (s : State) (segs : List Seg),
    (s.fault = true → s.start segs = ⟨{ s with slot := .empty, faultIx := s.faultIx + 1 }, .raised .peripheralFailure⟩) ∧
    (s.fault = false → s.start segs =
      ⟨{ s with
          slot := .empty, tx := .running segs, faultIx := s.faultIx + 1, trace := s.trace ++ [.txStart segs] }, .done⟩)

/-- R120, R122 to R124, R128: a waiting pulse on an idle transmitter, with no fault, plays its whole program and
takes the channel back; only its own state changes. That the wait ends is the fairness assumption of R131 as the model renders
it (notes/assumptions/4.md). -/
def Obligations.WaitingPulsePlaysAndReclaims : Prop :=
  ∀ (high low : BitVec 16) (s : State), ¬(high = 0#16 ∧ low = 0#16) → s.tx = .idle → s.env.fairTx = true →
    s.NoFaultFor (s.constructSamples + 2) →
    exec (.pulse high low true) s =
      .next { s with
        slot := .present, prog := buildSegs high low, pls := false, faultIx := s.faultIx + (s.constructSamples + 2),
        trace := s.trace ++ playEvents (buildSegs high low), status := .ok, rdata := 0#56 }

/-- R120, R122 to R124, R127: a non-waiting pulse on an idle transmitter, with no fault, returns `OK` with the
channel checked out and the transmission running. -/
def Obligations.NonWaitingPulseLeavesChannelOut : Prop :=
  ∀ (high low : BitVec 16) (s : State), ¬(high = 0#16 ∧ low = 0#16) → s.tx = .idle →
    s.NoFaultFor (s.constructSamples + 1) →
    exec (.pulse high low false) s =
      .next { s with
        slot := .empty, prog := buildSegs high low, tx := .running (buildSegs high low),
        faultIx := s.faultIx + (s.constructSamples + 1),
        trace := s.trace ++ [.txStart (buildSegs high low)], status := .ok, rdata := 0#56 }

/-- R122, the spec's inference R133 row 1: while the earlier transmission plays, a PULSE is refused with `ChannelOwnership` and no effect. -/
def Obligations.PulseWhilePlayingIsRefused : Prop :=
  ∀ (high low : BitVec 16) (wait : Bool) (s : State) (rest : List Seg), ¬(high = 0#16 ∧ low = 0#16) →
    s.slot = .empty → s.tx = .running rest →
    exec (.pulse high low wait) s = .next { s with status := .err .channelOwnership, rdata := 0#56 }

/-- R122, R124, R128, and the spec's inference R133 rows 2, 3, 4: the state each fault in PULSE leaves. The third clause rests on
the fairness of R131 as the model renders it (notes/assumptions/4.md). -/
def Obligations.PulseFaultsLeaveTheirState : Prop :=
  ∀ (high low : BitVec 16) (wait : Bool) (s : State), ¬(high = 0#16 ∧ low = 0#16) → s.tx = .idle →
    (s.slot = .empty → s.faultAt s.faultIx = true →
      exec (.pulse high low wait) s =
        .next { s with faultIx := s.faultIx + 1, status := .err .peripheralFailure, rdata := 0#56 }) ∧
    (s.NoFaultFor s.constructSamples → s.faultAt (s.faultIx + s.constructSamples) = true →
      exec (.pulse high low wait) s =
        .next { s with
          slot := .empty, prog := buildSegs high low, faultIx := s.faultIx + (s.constructSamples + 1),
          status := .err .peripheralFailure, rdata := 0#56 }) ∧
    (wait = true → s.env.fairTx = true → s.NoFaultFor (s.constructSamples + 1) →
      s.faultAt (s.faultIx + (s.constructSamples + 1)) = true →
      exec (.pulse high low wait) s =
        .next { s with
          slot := .empty, prog := buildSegs high low, pls := false,
          faultIx := s.faultIx + (s.constructSamples + 2),
          trace := s.trace ++ playEvents (buildSegs high low), status := .err .internal, rdata := 0#56 })

/-- R128, R131: a waiting pulse's wait ends with the transmitter idle and in no other way: a response `OK` comes with an idle
transmitter and the channel back, a response `Internal` (the release failed) with an idle transmitter and the slot empty; the
other responses of R133 come before the wait; and a held command has responded nothing and left the transmitter running (the
model's rendering, notes/assumptions/4.md). -/
def Obligations.WaitEndsWithTransmitterIdleOnly : Prop :=
  ∀ (high low : BitVec 16) (s : State), ¬(high = 0#16 ∧ low = 0#16) → s.held = false →
    ∃ t, exec (.pulse high low true) s = .next t ∧
      (t.held = false → t.status = .ok → t.tx = .idle ∧ t.slot = .present) ∧
      (t.held = false → t.status = .err .internal → t.tx = .idle ∧ t.slot = .empty) ∧
      (t.held = false → t.status ∈ [.ok, .err .internal, .err .channelOwnership, .err .peripheralFailure]) ∧
      (t.held = true → s.env.fairTx = false ∧ t.tx ≠ .idle ∧ t.slot = .empty ∧ t.status = s.status ∧
        t.rdata = s.rdata)

/-- R121, the spec's inference: PULSE neither reads nor writes `PWR`, `CFG` and `FB`: other values there change nothing else. -/
def Obligations.PulseIgnoresPowerAndMemory : Prop :=
  ∀ (high low : BitVec 16) (wait : Bool) (s t : State) (p : PowerState) (v : Byte) (m : Memory),
    exec (.pulse high low wait) s = .next t →
    exec (.pulse high low wait) { s with pwr := p, cfg := v, fb := m } = .next { t with pwr := p, cfg := v, fb := m }

/-- R129, R131: a running transmission plays its segments in order and ends after exactly `length(rest) + 1` transmitter
steps, with `PLS` at 0, having touched `PLS`, `TX` and `TRACE` only. -/
def Obligations.TransmissionPlaysToItsEnd : Prop :=
  ∀ (s : State) (rest : List Seg), s.tx = .running rest →
    State.txSteps (rest.length + 1) s =
        { s with
          tx := .idle, pls := false,
          trace := s.trace ++ (rest.map (fun g => .seg g.level g.ticks) ++ [.txEnd]) } ∧
      ∀ n, n ≤ rest.length → (State.txSteps n s).tx = .running (rest.drop n)

/-- R132: STAT answers `tx_busy`, `SLOT`, `PWR`, `CFG` in bits 11, 10, 9:8, 7:0 and changes nothing else. -/
def Obligations.StatReportsControlState : Prop :=
  ∀ s : State, ∃ d : BitVec 56, exec .stat s = .next { s with status := .ok, rdata := d } ∧
    d.toNat = (if s.tx = .idle then 0 else 2048) + (if s.slot = .present then 1024 else 0) +
      (match s.pwr with | .off => 0 | .on => 256 | .pending => 512) + s.cfg.toNat

/-! ### Power sequences and panel commands (43_power_and_panel_ops.md) -/

/-- R140: POWER_ON is a no-op when On; else, where none of its 78 samples is 1, it runs the up sequence and marks On;
a running transmission goes on by its own steps (R175, R187). -/
def Obligations.PowerOnRunsTheUpSequence : Prop :=
  ∀ s : State,
    (s.pwr = .on → exec .powerOn s = .next { s with status := .ok, rdata := 0#56 }) ∧
    (s.pwr ≠ .on → s.NoFaultFor 78 →
      ∃ t, exec .powerOn s = .next t ∧ t.pwr = .on ∧ t.cfg = s.cfg ||| 0x1D#8 ∧ t.sr = t.cfg ∧ t.q = t.cfg ∧
        t.stb = true ∧ t.clk = true ∧ t.data = true ∧ t.status = .ok ∧ t.rdata = 0#56 ∧ t.faultIx = s.faultIx + 78 ∧
        t.commandTrace = s.commandTrace ++ upEvents s.cfg ∧
        t.env = s.env ∧ t.commands = s.commands ∧ t.held = s.held ∧ t.fb = s.fb ∧ t.slot = s.slot ∧ t.prog = s.prog ∧ (∃ n, t.tx = (State.txSteps n s).tx ∧ t.pls = (State.txSteps n s).pls) ∧
        (s.tx = .idle → t.tx = .idle ∧ t.pls = s.pls ∧ t.txIx = s.txIx))

/-- R141: POWER_OFF is a no-op when Off; else, where none of its 78 samples is 1, it runs the down sequence and marks Off;
a running transmission goes on by its own steps (R175, R187). -/
def Obligations.PowerOffRunsTheDownSequence : Prop :=
  ∀ s : State,
    (s.pwr = .off → exec .powerOff s = .next { s with status := .ok, rdata := 0#56 }) ∧
    (s.pwr ≠ .off → s.NoFaultFor 78 →
      ∃ t, exec .powerOff s = .next t ∧ t.pwr = .off ∧ t.cfg = s.cfg &&& 0xE2#8 ∧ t.sr = t.cfg ∧ t.q = t.cfg ∧
        t.stb = true ∧ t.clk = true ∧ t.data = false ∧ t.status = .ok ∧ t.rdata = 0#56 ∧ t.faultIx = s.faultIx + 78 ∧
        t.commandTrace = s.commandTrace ++ downEvents s.cfg ∧
        t.env = s.env ∧ t.commands = s.commands ∧ t.held = s.held ∧ t.fb = s.fb ∧ t.slot = s.slot ∧ t.prog = s.prog ∧ (∃ n, t.tx = (State.txSteps n s).tx ∧ t.pls = (State.txSteps n s).pls) ∧
        (s.tx = .idle → t.tx = .idle ∧ t.pls = s.pls ∧ t.txIx = s.txIx))

/-- R142: POWER_ON when On and POWER_OFF when Off respond `OK` and do nothing at all, whatever `CFG` holds; so after either
responded `OK`, the same command again changes no piece of state. -/
def Obligations.PowerCommandsAreIdempotent : Prop :=
  ∀ s t : State,
    (s.pwr = .on → exec .powerOn s = .next { s with status := .ok, rdata := 0#56 }) ∧
    (s.pwr = .off → exec .powerOff s = .next { s with status := .ok, rdata := 0#56 }) ∧
    (t.status = .ok → exec .powerOn s = .next t → exec .powerOn t = .next t) ∧
    (t.status = .ok → exec .powerOff s = .next t → exec .powerOff t = .next t)

/-- R143: a power sequence that starts either completes, with all its events, and marks its end, or reports
`PeripheralFailure`, having done a proper beginning of its events and no more, and leaves `PWR` Pending, from which neither
command is a no-op; in both cases the steps done are not undone and the frame is the same, a running transmission going on by
its own steps (R187). -/
def Obligations.FailedSequenceLeavesPending : Prop :=
  ∀ s : State,
    (s.pwr ≠ .on → ∃ t n, exec .powerOn s = .next t ∧ t.rdata = 0#56 ∧
      t.commandTrace = s.commandTrace ++ (upEvents s.cfg).take n ∧
      ((t.status = .ok ∧ t.pwr = .on ∧ n = 81) ∨ (t.status = .err .peripheralFailure ∧ t.pwr = .pending ∧ n < 81)) ∧
      s.faultIx < t.faultIx ∧ t.cfg ∈ [s.cfg ||| 0x04#8, s.cfg ||| 0x1C#8, s.cfg ||| 0x1D#8] ∧
      t.fb = s.fb ∧ t.slot = s.slot ∧ t.prog = s.prog ∧ t.held = s.held ∧
      ∃ m, t.tx = (State.txSteps m s).tx ∧ t.pls = (State.txSteps m s).pls) ∧
    (s.pwr ≠ .off → ∃ t n, exec .powerOff s = .next t ∧ t.rdata = 0#56 ∧
      t.commandTrace = s.commandTrace ++ (downEvents s.cfg).take n ∧
      ((t.status = .ok ∧ t.pwr = .off ∧ n = 81) ∨ (t.status = .err .peripheralFailure ∧ t.pwr = .pending ∧ n < 81)) ∧
      s.faultIx < t.faultIx ∧ t.cfg ∈ [s.cfg &&& 0xFE#8, s.cfg &&& 0xE6#8, s.cfg &&& 0xE2#8] ∧
      t.fb = s.fb ∧ t.slot = s.slot ∧ t.prog = s.prog ∧ t.held = s.held ∧
      ∃ m, t.tx = (State.txSteps m s).tx ∧ t.pls = (State.txSteps m s).pls)

/-- R186: during POWER_ON and POWER_OFF, failed ones too, from a state whose intent and latches are in rail order, the
latches are in rail order at every moment of the trace. -/
def Obligations.PowerSequencesRespectRailOrder : Prop :=
  ∀ (i : Instr) (s t : State) (r : Receiver), i = .powerOn ∨ i = .powerOff → r.replay s.trace = s.receiver →
    railsInOrder s.cfg = true → railsInOrder s.q = true → exec i s = .next t →
    railsInOrder t.cfg = true ∧ railsInOrder t.q = true ∧
      ∀ p, s.trace <+: p → p <+: t.trace → railsInOrder (r.replay p).q = true

/-- R145: FLUSH is refused with `Hardware` and no effect unless `PWR = On`; else it is its schedule, for the framebuffer's
bytes in address order, run on the state. -/
def Obligations.FlushNeedsPower : Prop :=
  ∀ (mode : DrawMode) (s : State),
    (s.pwr ≠ .on → exec (.flush mode) s = .next { s with status := .err .hardware, rdata := 0#56 }) ∧
    (s.pwr = .on → exec (.flush mode) s =
      .next (s.runSched (Config.flushSched s.env.geom mode ((List.range s.fbBytes).map s.byteAt))).finish)

/-- R148, R149: whatever the schedules are, FLUSH leaves `FB` and `PWR`, REPAIR leaves `FB` alone, and a REPAIR that responds
`OK` leaves the panel Off with every named bit of `CFG` clear. -/
def Obligations.FlushAndRepairKeepTheFramebuffer : Prop :=
  ∀ s : State,
    (∀ mode, ∃ t, exec (.flush mode) s = .next t ∧ t.fb = s.fb ∧ t.pwr = s.pwr ∧ t.env = s.env ∧
      t.commands = s.commands ∧ (∀ a, t.byteAt a = s.byteAt a)) ∧
    (∃ t, exec .repair s = .next t ∧ t.fb = s.fb ∧ t.env = s.env ∧ t.commands = s.commands ∧
      (∀ a, t.byteAt a = s.byteAt a) ∧
      (t.held = false → t.status = .ok → t.pwr = .off ∧ t.cfg &&& 0x1D#8 = 0#8))

/-- R147: a schedule runs strictly in order: its first part, then the rest; a first part that raises or is held is the whole
run. -/
def Obligations.SchedulesRunInOrder : Prop :=
  ∀ (s : State) (a b : List SchedStep),
    ((s.runSched a).ending = .done → s.runSched (a ++ b) = (s.runSched a).state.runSched b) ∧
      ((s.runSched a).ending ≠ .done → s.runSched (a ++ b) = s.runSched a)

/-- R144, R146, R147: what one step of a schedule does. A schedule of one step is that step after a scheduling point
(notes/assumptions/3.md); `Pulse` runs what PULSE with these operands runs, `Cfg(c)` what that register command runs; `Settle(ms)`
records its event, a running transmission stepping before it, and takes no sample; `Bus(tag)` takes one sample, and on 1 raises
`PeripheralFailure` with nothing recorded, on 0 records its event; neither touches anything else. -/
def Obligations.ScheduleStepsFollowTheirTable : Prop :=
  ∀ s : State,
    (∀ st, s.runSched [st] = s.yield.runStep st) ∧
    (∀ high low wait (h : ¬(high = 0#16 ∧ low = 0#16)),
      s.runStep (.pulse high low wait h) = s.runPulse high low wait ∧
        exec (.pulse high low wait) s = .next (s.runStep (.pulse high low wait h)).finish) ∧
    (∀ c, s.runStep (.cfg c) = s.runCfg c ∧ exec (cfgInstr c) s = .next (s.runStep (.cfg c)).finish) ∧
    (∀ ms, s.runStep (.settle ms) = ⟨{ s.yield with trace := s.yield.trace ++ [.settle ms] }, .done⟩ ∧
      s.yield.faultIx = s.faultIx) ∧
    (∀ tag,
      (s.fault = true → s.runStep (.bus tag) = ⟨{ s with faultIx := s.faultIx + 1 }, .raised .peripheralFailure⟩) ∧
      (s.fault = false →
        s.runStep (.bus tag) = ⟨{ s with faultIx := s.faultIx + 1, trace := s.trace ++ [.bus tag] }, .done⟩))

/-- R147, the spec's inference: with no pulse after a non-waiting pulse, a schedule completes under `NO_FAULTS` and fairness
(notes/assumptions/4.md), whatever the transmitter's interleaving. -/
def Obligations.SafeSchedulesComplete : Prop :=
  ∀ (l : List SchedStep) (s : State), noPulseAfterNonWaiting l = true → s.env.noFaults = true → s.env.fairTx = true →
    s.tx = .idle → (s.runSched l).ending = .done

/-- R149, R150: REPAIR is three parts in this order, each run only where the one before it went through: the steps of POWER_ON, its
passes, the steps of POWER_OFF; with passes that are safe it completes under `NO_FAULTS` and
fairness (notes/assumptions/4.md) from every power state, without a POWER_ON before it, and ends Off. -/
def Obligations.RepairManagesItsOwnPower : Prop :=
  ∀ s : State,
    exec .repair s = .next (s.runRepairWith (Config.repairSched s.env.geom)).finish ∧
    (∀ l, s.runPowerOn.ending ≠ .done → s.runRepairWith l = s.runPowerOn) ∧
    (∀ l, s.runPowerOn.ending = .done → (s.runPowerOn.state.runSched l).ending ≠ .done →
      s.runRepairWith l = s.runPowerOn.state.runSched l) ∧
    (∀ l, s.runPowerOn.ending = .done → (s.runPowerOn.state.runSched l).ending = .done →
      s.runRepairWith l = (s.runPowerOn.state.runSched l).state.runPowerOff) ∧
    exec .powerOn s = .next s.runPowerOn.finish ∧ exec .powerOff s = .next s.runPowerOff.finish ∧
    ∀ l, noPulseAfterNonWaiting l = true → s.env.noFaults = true → s.env.fairTx = true → s.tx = .idle →
      (s.runRepairWith l).ending = .done ∧ (s.runRepairWith l).state.pwr = .off ∧
        (s.runRepairWith l).state.cfg &&& 0x1D#8 = 0#8
end

