-- ==== Sys2Proof/Laws/Encoding.lean ====
section
/-! SUPPORT. Words and fields as numbers: what the four formats encode to, what each field reads, and when a block of
reserved bits is zero (30_encoding.md R61 to R65, R68). -/

namespace Sys2Proof

theorem append_toNat {m n : Nat} (a : BitVec m) (b : BitVec n) : (a ++ b).toNat = a.toNat * 2 ^ n + b.toNat := by
  rw [BitVec.toNat_append, ← Nat.shiftLeft_add_eq_or_of_lt b.isLt, Nat.shiftLeft_eq]

theorem encodeG_toNat (o : Opcode) (x y w h : BitVec 12) (level : BitVec 8) :
    (encodeG o x y w h level).toNat =
      ((((o.byte.toNat * 2 ^ 12 + x.toNat) * 2 ^ 12 + y.toNat) * 2 ^ 12 + w.toNat) * 2 ^ 12 + h.toNat) * 2 ^ 8 +
        level.toNat := by
  rw [← append_toNat o.byte x, ← append_toNat (o.byte ++ x) y, ← append_toNat (o.byte ++ x ++ y) w,
    ← append_toNat (o.byte ++ x ++ y ++ w) h, ← append_toNat (o.byte ++ x ++ y ++ w ++ h) level]
  rfl

theorem append_zero_toNat {m : Nat} (a : BitVec m) (n : Nat) : (a ++ 0#n).toNat = a.toNat * 2 ^ n := by
  rw [append_toNat, BitVec.toNat_ofNat, Nat.zero_mod]; rfl

theorem encodeT_toNat (o : Opcode) (high low : BitVec 16) (wait : Bool) :
    (encodeT o high low wait).toNat =
      (((o.byte.toNat * 2 ^ 16 + high.toNat) * 2 ^ 16 + low.toNat) * 2 ^ 1 + wait.toNat) * 2 ^ 23 := by
  rw [← append_toNat o.byte high, ← append_toNat (o.byte ++ high) low, ← BitVec.toNat_ofBool wait,
    ← append_toNat (o.byte ++ high ++ low) (BitVec.ofBool wait), ← append_zero_toNat]
  rfl

theorem encodeM_toNat (o : Opcode) (mode : BitVec 2) :
    (encodeM o mode).toNat = (o.byte.toNat * 2 ^ 54) * 2 ^ 2 + mode.toNat := by
  rw [← append_zero_toNat, ← append_toNat (o.byte ++ 0#54) mode]
  rfl

theorem encodeN_toNat (o : Opcode) : (encodeN o).toNat = o.byte.toNat * 2 ^ 56 := by
  rw [← append_zero_toNat]
  rfl

/-- A field is a slice of the word's number. -/
theorem field_toNat (w : Word) (start len : Nat) :
    (w.extractLsb' start len).toNat = w.toNat / 2 ^ start % 2 ^ len := by
  rw [BitVec.extractLsb'_toNat, Nat.shiftRight_eq_div_pow]

/-- A block of bits of a word masked out is zero exactly when the slice is. -/
theorem masked_eq_zero (w : Word) (start len : Nat) (m : Word) (hle : start + len ≤ 64)
    (hm : ∀ i, i < 64 → m.getLsbD i = decide (start ≤ i ∧ i < start + len)) :
    w &&& m = 0#64 ↔ w.toNat / 2 ^ start % 2 ^ len = 0 := by
  constructor
  · intro h
    rw [← field_toNat]
    have : w.extractLsb' start len = 0#len := by
      apply BitVec.eq_of_getLsbD_eq
      intro i hi
      have hb := congrArg (fun v => v.getLsbD (start + i)) h
      simp only [BitVec.getLsbD_and, BitVec.getLsbD_zero, hm (start + i) (by omega)] at hb
      have : decide (start ≤ start + i ∧ start + i < start + len) = true := by simp; omega
      rw [this, Bool.and_true] at hb
      simp [hi, hb]
    rw [this]; simp
  · intro h
    apply BitVec.eq_of_getLsbD_eq
    intro i hi
    rw [BitVec.getLsbD_and, hm i hi, BitVec.getLsbD_zero]
    by_cases hr : start ≤ i ∧ i < start + len
    · have h0 := h
      rw [← field_toNat] at h0
      have hz : w.extractLsb' start len = 0#len := BitVec.eq_of_toNat_eq (by simpa using h0)
      have hb := congrArg (fun v => v.getLsbD (i - start)) hz
      have hlt : i - start < len := by omega
      have hi' : start + (i - start) = i := by omega
      simp only [BitVec.getLsbD_extractLsb', BitVec.getLsbD_zero, hlt, decide_true, Bool.true_and, hi'] at hb
      rw [hb, Bool.false_and]
    · simp [hr]

end Sys2Proof
end

