-- ==== Sys2Proof/Laws/State.lean ====
section
/-! SUPPORT. The field lemmas of State: for each named update, what each field reads after it (all true by rfl), and the
fields that neither the transmitter agent nor a scheduling point touches. -/

namespace Sys2Proof.Machine

/-! ### `State.emit` -/

@[simp] theorem State.emit_env (s : State) (e : Event) : (s.emit e).env = s.env := rfl
@[simp] theorem State.emit_commands (s : State) (e : Event) : (s.emit e).commands = s.commands := rfl
@[simp] theorem State.emit_held (s : State) (e : Event) : (s.emit e).held = s.held := rfl
@[simp] theorem State.emit_faultIx (s : State) (e : Event) : (s.emit e).faultIx = s.faultIx := rfl
@[simp] theorem State.emit_txIx (s : State) (e : Event) : (s.emit e).txIx = s.txIx := rfl
@[simp] theorem State.emit_fb (s : State) (e : Event) : (s.emit e).fb = s.fb := rfl
@[simp] theorem State.emit_cfg (s : State) (e : Event) : (s.emit e).cfg = s.cfg := rfl
@[simp] theorem State.emit_pwr (s : State) (e : Event) : (s.emit e).pwr = s.pwr := rfl
@[simp] theorem State.emit_slot (s : State) (e : Event) : (s.emit e).slot = s.slot := rfl
@[simp] theorem State.emit_tx (s : State) (e : Event) : (s.emit e).tx = s.tx := rfl
@[simp] theorem State.emit_prog (s : State) (e : Event) : (s.emit e).prog = s.prog := rfl
@[simp] theorem State.emit_data (s : State) (e : Event) : (s.emit e).data = s.data := rfl
@[simp] theorem State.emit_clk (s : State) (e : Event) : (s.emit e).clk = s.clk := rfl
@[simp] theorem State.emit_stb (s : State) (e : Event) : (s.emit e).stb = s.stb := rfl
@[simp] theorem State.emit_pls (s : State) (e : Event) : (s.emit e).pls = s.pls := rfl
@[simp] theorem State.emit_status (s : State) (e : Event) : (s.emit e).status = s.status := rfl
@[simp] theorem State.emit_rdata (s : State) (e : Event) : (s.emit e).rdata = s.rdata := rfl
@[simp] theorem State.emit_sr (s : State) (e : Event) : (s.emit e).sr = s.sr := rfl
@[simp] theorem State.emit_q (s : State) (e : Event) : (s.emit e).q = s.q := rfl
@[simp] theorem State.emit_trace (s : State) (e : Event) : (s.emit e).trace = s.trace ++ [e] := rfl

/-! ### `State.sampled` -/

@[simp] theorem State.sampled_env (s : State) : (s.sampled).env = s.env := rfl
@[simp] theorem State.sampled_commands (s : State) : (s.sampled).commands = s.commands := rfl
@[simp] theorem State.sampled_held (s : State) : (s.sampled).held = s.held := rfl
@[simp] theorem State.sampled_faultIx (s : State) : (s.sampled).faultIx = s.faultIx + 1 := rfl
@[simp] theorem State.sampled_txIx (s : State) : (s.sampled).txIx = s.txIx := rfl
@[simp] theorem State.sampled_fb (s : State) : (s.sampled).fb = s.fb := rfl
@[simp] theorem State.sampled_cfg (s : State) : (s.sampled).cfg = s.cfg := rfl
@[simp] theorem State.sampled_pwr (s : State) : (s.sampled).pwr = s.pwr := rfl
@[simp] theorem State.sampled_slot (s : State) : (s.sampled).slot = s.slot := rfl
@[simp] theorem State.sampled_tx (s : State) : (s.sampled).tx = s.tx := rfl
@[simp] theorem State.sampled_prog (s : State) : (s.sampled).prog = s.prog := rfl
@[simp] theorem State.sampled_data (s : State) : (s.sampled).data = s.data := rfl
@[simp] theorem State.sampled_clk (s : State) : (s.sampled).clk = s.clk := rfl
@[simp] theorem State.sampled_stb (s : State) : (s.sampled).stb = s.stb := rfl
@[simp] theorem State.sampled_pls (s : State) : (s.sampled).pls = s.pls := rfl
@[simp] theorem State.sampled_status (s : State) : (s.sampled).status = s.status := rfl
@[simp] theorem State.sampled_rdata (s : State) : (s.sampled).rdata = s.rdata := rfl
@[simp] theorem State.sampled_sr (s : State) : (s.sampled).sr = s.sr := rfl
@[simp] theorem State.sampled_q (s : State) : (s.sampled).q = s.q := rfl
@[simp] theorem State.sampled_trace (s : State) : (s.sampled).trace = s.trace := rfl

/-! ### `State.respond` -/

@[simp] theorem State.respond_env (s : State) (st : Status) (d : BitVec 56) : (s.respond st d).env = s.env := rfl
@[simp] theorem State.respond_commands (s : State) (st : Status) (d : BitVec 56) : (s.respond st d).commands = s.commands := rfl
@[simp] theorem State.respond_held (s : State) (st : Status) (d : BitVec 56) : (s.respond st d).held = s.held := rfl
@[simp] theorem State.respond_faultIx (s : State) (st : Status) (d : BitVec 56) : (s.respond st d).faultIx = s.faultIx := rfl
@[simp] theorem State.respond_txIx (s : State) (st : Status) (d : BitVec 56) : (s.respond st d).txIx = s.txIx := rfl
@[simp] theorem State.respond_fb (s : State) (st : Status) (d : BitVec 56) : (s.respond st d).fb = s.fb := rfl
@[simp] theorem State.respond_cfg (s : State) (st : Status) (d : BitVec 56) : (s.respond st d).cfg = s.cfg := rfl
@[simp] theorem State.respond_pwr (s : State) (st : Status) (d : BitVec 56) : (s.respond st d).pwr = s.pwr := rfl
@[simp] theorem State.respond_slot (s : State) (st : Status) (d : BitVec 56) : (s.respond st d).slot = s.slot := rfl
@[simp] theorem State.respond_tx (s : State) (st : Status) (d : BitVec 56) : (s.respond st d).tx = s.tx := rfl
@[simp] theorem State.respond_prog (s : State) (st : Status) (d : BitVec 56) : (s.respond st d).prog = s.prog := rfl
@[simp] theorem State.respond_data (s : State) (st : Status) (d : BitVec 56) : (s.respond st d).data = s.data := rfl
@[simp] theorem State.respond_clk (s : State) (st : Status) (d : BitVec 56) : (s.respond st d).clk = s.clk := rfl
@[simp] theorem State.respond_stb (s : State) (st : Status) (d : BitVec 56) : (s.respond st d).stb = s.stb := rfl
@[simp] theorem State.respond_pls (s : State) (st : Status) (d : BitVec 56) : (s.respond st d).pls = s.pls := rfl
@[simp] theorem State.respond_status (s : State) (st : Status) (d : BitVec 56) : (s.respond st d).status = st := rfl
@[simp] theorem State.respond_rdata (s : State) (st : Status) (d : BitVec 56) : (s.respond st d).rdata = d := rfl
@[simp] theorem State.respond_sr (s : State) (st : Status) (d : BitVec 56) : (s.respond st d).sr = s.sr := rfl
@[simp] theorem State.respond_q (s : State) (st : Status) (d : BitVec 56) : (s.respond st d).q = s.q := rfl
@[simp] theorem State.respond_trace (s : State) (st : Status) (d : BitVec 56) : (s.respond st d).trace = s.trace := rfl

/-! ### `State.raise` -/

@[simp] theorem State.raise_env (s : State) (k : ErrKind) : (s.raise k).env = s.env := rfl
@[simp] theorem State.raise_commands (s : State) (k : ErrKind) : (s.raise k).commands = s.commands := rfl
@[simp] theorem State.raise_held (s : State) (k : ErrKind) : (s.raise k).held = s.held := rfl
@[simp] theorem State.raise_faultIx (s : State) (k : ErrKind) : (s.raise k).faultIx = s.faultIx := rfl
@[simp] theorem State.raise_txIx (s : State) (k : ErrKind) : (s.raise k).txIx = s.txIx := rfl
@[simp] theorem State.raise_fb (s : State) (k : ErrKind) : (s.raise k).fb = s.fb := rfl
@[simp] theorem State.raise_cfg (s : State) (k : ErrKind) : (s.raise k).cfg = s.cfg := rfl
@[simp] theorem State.raise_pwr (s : State) (k : ErrKind) : (s.raise k).pwr = s.pwr := rfl
@[simp] theorem State.raise_slot (s : State) (k : ErrKind) : (s.raise k).slot = s.slot := rfl
@[simp] theorem State.raise_tx (s : State) (k : ErrKind) : (s.raise k).tx = s.tx := rfl
@[simp] theorem State.raise_prog (s : State) (k : ErrKind) : (s.raise k).prog = s.prog := rfl
@[simp] theorem State.raise_data (s : State) (k : ErrKind) : (s.raise k).data = s.data := rfl
@[simp] theorem State.raise_clk (s : State) (k : ErrKind) : (s.raise k).clk = s.clk := rfl
@[simp] theorem State.raise_stb (s : State) (k : ErrKind) : (s.raise k).stb = s.stb := rfl
@[simp] theorem State.raise_pls (s : State) (k : ErrKind) : (s.raise k).pls = s.pls := rfl
@[simp] theorem State.raise_status (s : State) (k : ErrKind) : (s.raise k).status = .err k := rfl
@[simp] theorem State.raise_rdata (s : State) (k : ErrKind) : (s.raise k).rdata = 0#56 := rfl
@[simp] theorem State.raise_sr (s : State) (k : ErrKind) : (s.raise k).sr = s.sr := rfl
@[simp] theorem State.raise_q (s : State) (k : ErrKind) : (s.raise k).q = s.q := rfl
@[simp] theorem State.raise_trace (s : State) (k : ErrKind) : (s.raise k).trace = s.trace := rfl

/-! ### `State.build` -/

@[simp] theorem State.build_env (s : State) (h l : BitVec 16) : (s.build h l).env = s.env := rfl
@[simp] theorem State.build_commands (s : State) (h l : BitVec 16) : (s.build h l).commands = s.commands := rfl
@[simp] theorem State.build_held (s : State) (h l : BitVec 16) : (s.build h l).held = s.held := rfl
@[simp] theorem State.build_faultIx (s : State) (h l : BitVec 16) : (s.build h l).faultIx = s.faultIx := rfl
@[simp] theorem State.build_txIx (s : State) (h l : BitVec 16) : (s.build h l).txIx = s.txIx := rfl
@[simp] theorem State.build_fb (s : State) (h l : BitVec 16) : (s.build h l).fb = s.fb := rfl
@[simp] theorem State.build_cfg (s : State) (h l : BitVec 16) : (s.build h l).cfg = s.cfg := rfl
@[simp] theorem State.build_pwr (s : State) (h l : BitVec 16) : (s.build h l).pwr = s.pwr := rfl
@[simp] theorem State.build_slot (s : State) (h l : BitVec 16) : (s.build h l).slot = s.slot := rfl
@[simp] theorem State.build_tx (s : State) (h l : BitVec 16) : (s.build h l).tx = s.tx := rfl
@[simp] theorem State.build_prog (s : State) (h l : BitVec 16) : (s.build h l).prog = buildSegs h l := rfl
@[simp] theorem State.build_data (s : State) (h l : BitVec 16) : (s.build h l).data = s.data := rfl
@[simp] theorem State.build_clk (s : State) (h l : BitVec 16) : (s.build h l).clk = s.clk := rfl
@[simp] theorem State.build_stb (s : State) (h l : BitVec 16) : (s.build h l).stb = s.stb := rfl
@[simp] theorem State.build_pls (s : State) (h l : BitVec 16) : (s.build h l).pls = s.pls := rfl
@[simp] theorem State.build_status (s : State) (h l : BitVec 16) : (s.build h l).status = s.status := rfl
@[simp] theorem State.build_rdata (s : State) (h l : BitVec 16) : (s.build h l).rdata = s.rdata := rfl
@[simp] theorem State.build_sr (s : State) (h l : BitVec 16) : (s.build h l).sr = s.sr := rfl
@[simp] theorem State.build_q (s : State) (h l : BitVec 16) : (s.build h l).q = s.q := rfl
@[simp] theorem State.build_trace (s : State) (h l : BitVec 16) : (s.build h l).trace = s.trace := rfl

/-! ### `State.fillBytes` -/

@[simp] theorem State.fillBytes_env (s : State) (b : Byte) : (s.fillBytes b).env = s.env := rfl
@[simp] theorem State.fillBytes_commands (s : State) (b : Byte) : (s.fillBytes b).commands = s.commands := rfl
@[simp] theorem State.fillBytes_held (s : State) (b : Byte) : (s.fillBytes b).held = s.held := rfl
@[simp] theorem State.fillBytes_faultIx (s : State) (b : Byte) : (s.fillBytes b).faultIx = s.faultIx := rfl
@[simp] theorem State.fillBytes_txIx (s : State) (b : Byte) : (s.fillBytes b).txIx = s.txIx := rfl
@[simp] theorem State.fillBytes_cfg (s : State) (b : Byte) : (s.fillBytes b).cfg = s.cfg := rfl
@[simp] theorem State.fillBytes_pwr (s : State) (b : Byte) : (s.fillBytes b).pwr = s.pwr := rfl
@[simp] theorem State.fillBytes_slot (s : State) (b : Byte) : (s.fillBytes b).slot = s.slot := rfl
@[simp] theorem State.fillBytes_tx (s : State) (b : Byte) : (s.fillBytes b).tx = s.tx := rfl
@[simp] theorem State.fillBytes_prog (s : State) (b : Byte) : (s.fillBytes b).prog = s.prog := rfl
@[simp] theorem State.fillBytes_data (s : State) (b : Byte) : (s.fillBytes b).data = s.data := rfl
@[simp] theorem State.fillBytes_clk (s : State) (b : Byte) : (s.fillBytes b).clk = s.clk := rfl
@[simp] theorem State.fillBytes_stb (s : State) (b : Byte) : (s.fillBytes b).stb = s.stb := rfl
@[simp] theorem State.fillBytes_pls (s : State) (b : Byte) : (s.fillBytes b).pls = s.pls := rfl
@[simp] theorem State.fillBytes_status (s : State) (b : Byte) : (s.fillBytes b).status = s.status := rfl
@[simp] theorem State.fillBytes_rdata (s : State) (b : Byte) : (s.fillBytes b).rdata = s.rdata := rfl
@[simp] theorem State.fillBytes_sr (s : State) (b : Byte) : (s.fillBytes b).sr = s.sr := rfl
@[simp] theorem State.fillBytes_q (s : State) (b : Byte) : (s.fillBytes b).q = s.q := rfl
@[simp] theorem State.fillBytes_trace (s : State) (b : Byte) : (s.fillBytes b).trace = s.trace := rfl

/-! ### `State.present` -/

@[simp] theorem State.present_env (s : State) (w : Word) : (s.present w).env = s.env := rfl
@[simp] theorem State.present_commands (s : State) (w : Word) : (s.present w).commands = w :: s.commands := rfl
@[simp] theorem State.present_held (s : State) (w : Word) : (s.present w).held = false := rfl
@[simp] theorem State.present_faultIx (s : State) (w : Word) : (s.present w).faultIx = s.faultIx := rfl
@[simp] theorem State.present_txIx (s : State) (w : Word) : (s.present w).txIx = s.txIx := rfl
@[simp] theorem State.present_fb (s : State) (w : Word) : (s.present w).fb = s.fb := rfl
@[simp] theorem State.present_cfg (s : State) (w : Word) : (s.present w).cfg = s.cfg := rfl
@[simp] theorem State.present_pwr (s : State) (w : Word) : (s.present w).pwr = s.pwr := rfl
@[simp] theorem State.present_slot (s : State) (w : Word) : (s.present w).slot = s.slot := rfl
@[simp] theorem State.present_tx (s : State) (w : Word) : (s.present w).tx = s.tx := rfl
@[simp] theorem State.present_prog (s : State) (w : Word) : (s.present w).prog = s.prog := rfl
@[simp] theorem State.present_data (s : State) (w : Word) : (s.present w).data = s.data := rfl
@[simp] theorem State.present_clk (s : State) (w : Word) : (s.present w).clk = s.clk := rfl
@[simp] theorem State.present_stb (s : State) (w : Word) : (s.present w).stb = s.stb := rfl
@[simp] theorem State.present_pls (s : State) (w : Word) : (s.present w).pls = s.pls := rfl
@[simp] theorem State.present_status (s : State) (w : Word) : (s.present w).status = s.status := rfl
@[simp] theorem State.present_rdata (s : State) (w : Word) : (s.present w).rdata = s.rdata := rfl
@[simp] theorem State.present_sr (s : State) (w : Word) : (s.present w).sr = s.sr := rfl
@[simp] theorem State.present_q (s : State) (w : Word) : (s.present w).q = s.q := rfl
@[simp] theorem State.present_trace (s : State) (w : Word) : (s.present w).trace = s.trace := rfl

/-! ### `State.setLine` -/

@[simp] theorem State.setLine_env (s : State) (n : Line) (b : Bool) : (s.setLine n b).env = s.env := by cases n <;> rfl
@[simp] theorem State.setLine_commands (s : State) (n : Line) (b : Bool) : (s.setLine n b).commands = s.commands := by cases n <;> rfl
@[simp] theorem State.setLine_held (s : State) (n : Line) (b : Bool) : (s.setLine n b).held = s.held := by cases n <;> rfl
@[simp] theorem State.setLine_faultIx (s : State) (n : Line) (b : Bool) : (s.setLine n b).faultIx = s.faultIx := by cases n <;> rfl
@[simp] theorem State.setLine_txIx (s : State) (n : Line) (b : Bool) : (s.setLine n b).txIx = s.txIx := by cases n <;> rfl
@[simp] theorem State.setLine_fb (s : State) (n : Line) (b : Bool) : (s.setLine n b).fb = s.fb := by cases n <;> rfl
@[simp] theorem State.setLine_cfg (s : State) (n : Line) (b : Bool) : (s.setLine n b).cfg = s.cfg := by cases n <;> rfl
@[simp] theorem State.setLine_pwr (s : State) (n : Line) (b : Bool) : (s.setLine n b).pwr = s.pwr := by cases n <;> rfl
@[simp] theorem State.setLine_slot (s : State) (n : Line) (b : Bool) : (s.setLine n b).slot = s.slot := by cases n <;> rfl
@[simp] theorem State.setLine_tx (s : State) (n : Line) (b : Bool) : (s.setLine n b).tx = s.tx := by cases n <;> rfl
@[simp] theorem State.setLine_prog (s : State) (n : Line) (b : Bool) : (s.setLine n b).prog = s.prog := by cases n <;> rfl
@[simp] theorem State.setLine_pls (s : State) (n : Line) (b : Bool) : (s.setLine n b).pls = s.pls := by cases n <;> rfl
@[simp] theorem State.setLine_status (s : State) (n : Line) (b : Bool) : (s.setLine n b).status = s.status := by cases n <;> rfl
@[simp] theorem State.setLine_rdata (s : State) (n : Line) (b : Bool) : (s.setLine n b).rdata = s.rdata := by cases n <;> rfl
@[simp] theorem State.setLine_trace (s : State) (n : Line) (b : Bool) : (s.setLine n b).trace = s.trace ++ [.line n b] := by cases n <;> rfl

/-! ### The transmitter agent: it touches `PLS`, `TX` and `TRACE` alone (42_pulse_ops.md R129) -/

@[simp] theorem State.txStep_env (s : State) : s.txStep.env = s.env := by
  unfold State.txStep; split <;> rfl
@[simp] theorem State.txStep_commands (s : State) : s.txStep.commands = s.commands := by
  unfold State.txStep; split <;> rfl
@[simp] theorem State.txStep_held (s : State) : s.txStep.held = s.held := by
  unfold State.txStep; split <;> rfl
@[simp] theorem State.txStep_faultIx (s : State) : s.txStep.faultIx = s.faultIx := by
  unfold State.txStep; split <;> rfl
@[simp] theorem State.txStep_txIx (s : State) : s.txStep.txIx = s.txIx := by
  unfold State.txStep; split <;> rfl
@[simp] theorem State.txStep_fb (s : State) : s.txStep.fb = s.fb := by
  unfold State.txStep; split <;> rfl
@[simp] theorem State.txStep_cfg (s : State) : s.txStep.cfg = s.cfg := by
  unfold State.txStep; split <;> rfl
@[simp] theorem State.txStep_pwr (s : State) : s.txStep.pwr = s.pwr := by
  unfold State.txStep; split <;> rfl
@[simp] theorem State.txStep_slot (s : State) : s.txStep.slot = s.slot := by
  unfold State.txStep; split <;> rfl
@[simp] theorem State.txStep_prog (s : State) : s.txStep.prog = s.prog := by
  unfold State.txStep; split <;> rfl
@[simp] theorem State.txStep_data (s : State) : s.txStep.data = s.data := by
  unfold State.txStep; split <;> rfl
@[simp] theorem State.txStep_clk (s : State) : s.txStep.clk = s.clk := by
  unfold State.txStep; split <;> rfl
@[simp] theorem State.txStep_stb (s : State) : s.txStep.stb = s.stb := by
  unfold State.txStep; split <;> rfl
@[simp] theorem State.txStep_status (s : State) : s.txStep.status = s.status := by
  unfold State.txStep; split <;> rfl
@[simp] theorem State.txStep_rdata (s : State) : s.txStep.rdata = s.rdata := by
  unfold State.txStep; split <;> rfl
@[simp] theorem State.txStep_sr (s : State) : s.txStep.sr = s.sr := by
  unfold State.txStep; split <;> rfl
@[simp] theorem State.txStep_q (s : State) : s.txStep.q = s.q := by
  unfold State.txStep; split <;> rfl

@[simp] theorem State.txSteps_env (n : Nat) (s : State) : (State.txSteps n s).env = s.env := by
  induction n generalizing s with
  | zero => rfl
  | succ n ih => simp [State.txSteps, ih]
@[simp] theorem State.txSteps_commands (n : Nat) (s : State) : (State.txSteps n s).commands = s.commands := by
  induction n generalizing s with
  | zero => rfl
  | succ n ih => simp [State.txSteps, ih]
@[simp] theorem State.txSteps_held (n : Nat) (s : State) : (State.txSteps n s).held = s.held := by
  induction n generalizing s with
  | zero => rfl
  | succ n ih => simp [State.txSteps, ih]
@[simp] theorem State.txSteps_faultIx (n : Nat) (s : State) : (State.txSteps n s).faultIx = s.faultIx := by
  induction n generalizing s with
  | zero => rfl
  | succ n ih => simp [State.txSteps, ih]
@[simp] theorem State.txSteps_txIx (n : Nat) (s : State) : (State.txSteps n s).txIx = s.txIx := by
  induction n generalizing s with
  | zero => rfl
  | succ n ih => simp [State.txSteps, ih]
@[simp] theorem State.txSteps_fb (n : Nat) (s : State) : (State.txSteps n s).fb = s.fb := by
  induction n generalizing s with
  | zero => rfl
  | succ n ih => simp [State.txSteps, ih]
@[simp] theorem State.txSteps_cfg (n : Nat) (s : State) : (State.txSteps n s).cfg = s.cfg := by
  induction n generalizing s with
  | zero => rfl
  | succ n ih => simp [State.txSteps, ih]
@[simp] theorem State.txSteps_pwr (n : Nat) (s : State) : (State.txSteps n s).pwr = s.pwr := by
  induction n generalizing s with
  | zero => rfl
  | succ n ih => simp [State.txSteps, ih]
@[simp] theorem State.txSteps_slot (n : Nat) (s : State) : (State.txSteps n s).slot = s.slot := by
  induction n generalizing s with
  | zero => rfl
  | succ n ih => simp [State.txSteps, ih]
@[simp] theorem State.txSteps_prog (n : Nat) (s : State) : (State.txSteps n s).prog = s.prog := by
  induction n generalizing s with
  | zero => rfl
  | succ n ih => simp [State.txSteps, ih]
@[simp] theorem State.txSteps_data (n : Nat) (s : State) : (State.txSteps n s).data = s.data := by
  induction n generalizing s with
  | zero => rfl
  | succ n ih => simp [State.txSteps, ih]
@[simp] theorem State.txSteps_clk (n : Nat) (s : State) : (State.txSteps n s).clk = s.clk := by
  induction n generalizing s with
  | zero => rfl
  | succ n ih => simp [State.txSteps, ih]
@[simp] theorem State.txSteps_stb (n : Nat) (s : State) : (State.txSteps n s).stb = s.stb := by
  induction n generalizing s with
  | zero => rfl
  | succ n ih => simp [State.txSteps, ih]
@[simp] theorem State.txSteps_status (n : Nat) (s : State) : (State.txSteps n s).status = s.status := by
  induction n generalizing s with
  | zero => rfl
  | succ n ih => simp [State.txSteps, ih]
@[simp] theorem State.txSteps_rdata (n : Nat) (s : State) : (State.txSteps n s).rdata = s.rdata := by
  induction n generalizing s with
  | zero => rfl
  | succ n ih => simp [State.txSteps, ih]
@[simp] theorem State.txSteps_sr (n : Nat) (s : State) : (State.txSteps n s).sr = s.sr := by
  induction n generalizing s with
  | zero => rfl
  | succ n ih => simp [State.txSteps, ih]
@[simp] theorem State.txSteps_q (n : Nat) (s : State) : (State.txSteps n s).q = s.q := by
  induction n generalizing s with
  | zero => rfl
  | succ n ih => simp [State.txSteps, ih]

@[simp] theorem State.yield_env (s : State) : s.yield.env = s.env := by
  unfold State.yield; split <;> simp
@[simp] theorem State.yield_commands (s : State) : s.yield.commands = s.commands := by
  unfold State.yield; split <;> simp
@[simp] theorem State.yield_held (s : State) : s.yield.held = s.held := by
  unfold State.yield; split <;> simp
@[simp] theorem State.yield_faultIx (s : State) : s.yield.faultIx = s.faultIx := by
  unfold State.yield; split <;> simp
@[simp] theorem State.yield_fb (s : State) : s.yield.fb = s.fb := by
  unfold State.yield; split <;> simp
@[simp] theorem State.yield_cfg (s : State) : s.yield.cfg = s.cfg := by
  unfold State.yield; split <;> simp
@[simp] theorem State.yield_pwr (s : State) : s.yield.pwr = s.pwr := by
  unfold State.yield; split <;> simp
@[simp] theorem State.yield_slot (s : State) : s.yield.slot = s.slot := by
  unfold State.yield; split <;> simp
@[simp] theorem State.yield_prog (s : State) : s.yield.prog = s.prog := by
  unfold State.yield; split <;> simp
@[simp] theorem State.yield_data (s : State) : s.yield.data = s.data := by
  unfold State.yield; split <;> simp
@[simp] theorem State.yield_clk (s : State) : s.yield.clk = s.clk := by
  unfold State.yield; split <;> simp
@[simp] theorem State.yield_stb (s : State) : s.yield.stb = s.stb := by
  unfold State.yield; split <;> simp
@[simp] theorem State.yield_status (s : State) : s.yield.status = s.status := by
  unfold State.yield; split <;> simp
@[simp] theorem State.yield_rdata (s : State) : s.yield.rdata = s.rdata := by
  unfold State.yield; split <;> simp
@[simp] theorem State.yield_sr (s : State) : s.yield.sr = s.sr := by
  unfold State.yield; split <;> simp
@[simp] theorem State.yield_q (s : State) : s.yield.q = s.q := by
  unfold State.yield; split <;> simp

@[simp] theorem State.drain_env (s : State) : s.drain.env = s.env := by
  unfold State.drain; split <;> simp
@[simp] theorem State.drain_commands (s : State) : s.drain.commands = s.commands := by
  unfold State.drain; split <;> simp
@[simp] theorem State.drain_held (s : State) : s.drain.held = s.held := by
  unfold State.drain; split <;> simp
@[simp] theorem State.drain_faultIx (s : State) : s.drain.faultIx = s.faultIx := by
  unfold State.drain; split <;> simp
@[simp] theorem State.drain_txIx (s : State) : s.drain.txIx = s.txIx := by
  unfold State.drain; split <;> simp
@[simp] theorem State.drain_fb (s : State) : s.drain.fb = s.fb := by
  unfold State.drain; split <;> simp
@[simp] theorem State.drain_cfg (s : State) : s.drain.cfg = s.cfg := by
  unfold State.drain; split <;> simp
@[simp] theorem State.drain_pwr (s : State) : s.drain.pwr = s.pwr := by
  unfold State.drain; split <;> simp
@[simp] theorem State.drain_slot (s : State) : s.drain.slot = s.slot := by
  unfold State.drain; split <;> simp
@[simp] theorem State.drain_prog (s : State) : s.drain.prog = s.prog := by
  unfold State.drain; split <;> simp
@[simp] theorem State.drain_data (s : State) : s.drain.data = s.data := by
  unfold State.drain; split <;> simp
@[simp] theorem State.drain_clk (s : State) : s.drain.clk = s.clk := by
  unfold State.drain; split <;> simp
@[simp] theorem State.drain_stb (s : State) : s.drain.stb = s.stb := by
  unfold State.drain; split <;> simp
@[simp] theorem State.drain_status (s : State) : s.drain.status = s.status := by
  unfold State.drain; split <;> simp
@[simp] theorem State.drain_rdata (s : State) : s.drain.rdata = s.rdata := by
  unfold State.drain; split <;> simp
@[simp] theorem State.drain_sr (s : State) : s.drain.sr = s.sr := by
  unfold State.drain; split <;> simp
@[simp] theorem State.drain_q (s : State) : s.drain.q = s.q := by
  unfold State.drain; split <;> simp

/-! ### Fault samples depend on the instance and on the sample's number alone (10_state.md R30) -/

theorem State.faultAt_congr {s t : State} (h : t.env = s.env) (n : Nat) : t.faultAt n = s.faultAt n := by
  simp [State.faultAt, h]

@[simp] theorem State.emit_faultAt (s : State) (e : Event) (n : Nat) : (s.emit e).faultAt n = s.faultAt n :=
  State.faultAt_congr (by simp) n
@[simp] theorem State.sampled_faultAt (s : State) (n : Nat) : (s.sampled).faultAt n = s.faultAt n :=
  State.faultAt_congr (by simp) n
@[simp] theorem State.yield_faultAt (s : State) (n : Nat) : (s.yield).faultAt n = s.faultAt n :=
  State.faultAt_congr (by simp) n
@[simp] theorem State.drain_faultAt (s : State) (n : Nat) : (s.drain).faultAt n = s.faultAt n :=
  State.faultAt_congr (by simp) n
@[simp] theorem State.setLine_faultAt (s : State) (l : Line) (b : Bool) (n : Nat) : (s.setLine l b).faultAt n = s.faultAt n :=
  State.faultAt_congr (by simp) n
@[simp] theorem State.build_faultAt (s : State) (h l : BitVec 16) (n : Nat) : (s.build h l).faultAt n = s.faultAt n :=
  State.faultAt_congr (by simp) n

end Sys2Proof.Machine
end

