-- ==== Sys2Proof/Laws/Lines.lean ====
section
/-! SUPPORT. What the shared operations of the hardware commands can do, said once each: sequencing, the transmitter's
steps, the trace with the receiver it drives, and the line operations of a ShiftOut. -/

namespace Sys2Proof.Machine

/-! ### Sequencing -/

@[simp] theorem Run.andThen_done (s : State) (f : State → Run) : s.done.andThen f = f s := rfl

@[simp] theorem Run.andThen_fail (s : State) (k : ErrKind) (f : State → Run) : (s.fail k).andThen f = s.fail k := rfl

/-- A sequence is its first part where that did not go through, else the second part run after it. -/
theorem Run.andThen_cases (r : Run) (f : State → Run) :
    (r.ending = .done ∧ r.andThen f = f r.state) ∨ (r.ending ≠ .done ∧ r.andThen f = r) := by
  obtain ⟨s, e⟩ := r
  cases e <;> simp [Run.andThen]

/-- A relation that each part of a sequence keeps is kept by the sequence. -/
theorem Run.andThen_keeps {R : State → Prop} {r : Run} {f : State → Run} (hr : R r.state)
    (hf : ∀ t, R t → R (f t).state) : R (r.andThen f).state := by
  rcases Run.andThen_cases r f with ⟨-, h⟩ | ⟨-, h⟩ <;> rw [h]
  · exact hf _ hr
  · exact hr

/-- The two outcomes of an operation guarded by the fault input. -/
theorem State.unlessFault_cases (s : State) (k : ErrKind) (f : State → Run) :
    (s.fault = false ∧ s.unlessFault k f = f s.sampled) ∨ (s.fault = true ∧ s.unlessFault k f = s.sampled.fail k) := by
  unfold State.unlessFault
  cases s.fault <;> simp

/-- What each part of a guarded operation keeps, the whole keeps. -/
theorem State.unlessFault_keeps {R : State → Prop} {s : State} {k : ErrKind} {f : State → Run} (hs : R s.sampled)
    (hf : R s.sampled → R (f s.sampled).state) : R (s.unlessFault k f).state := by
  rcases State.unlessFault_cases s k f with ⟨-, h⟩ | ⟨-, h⟩ <;> rw [h]
  · exact hf hs
  · exact hs

/-! ### The transmitter and its scheduling points -/

@[simp] theorem State.txStep_of_idle {s : State} (h : s.tx = .idle) : s.txStep = s := by
  simp [State.txStep, h]

@[simp] theorem State.yield_of_idle {s : State} (h : s.tx = .idle) : s.yield = s := by
  simp [State.yield, h]

@[simp] theorem State.drain_of_idle {s : State} (h : s.tx = .idle) : s.drain = s := by
  simp [State.drain, h]

/-- At a scheduling point nothing happens but some steps of the transmitter and the count of the draw. -/
theorem State.yield_spec (s : State) : ∃ n k, s.yield = State.txSteps n { s with txIx := k } := by
  unfold State.yield
  split
  · exact ⟨0, s.txIx, rfl⟩
  · exact ⟨_, _, rfl⟩

theorem State.drain_spec (s : State) : ∃ n, s.drain = State.txSteps n s := by
  unfold State.drain
  split
  · exact ⟨0, rfl⟩
  · exact ⟨_, rfl⟩

/-- A property that a transmitter step keeps and that does not speak of `txIx` is kept at a scheduling point. -/
theorem State.yield_keeps {R : State → Prop} {s : State} (hs : R s) (hix : ∀ t k, R t → R { t with txIx := k })
    (hstep : ∀ t, R t → R t.txStep) : R s.yield := by
  obtain ⟨n, k, h⟩ := s.yield_spec
  rw [h]
  have h0 := hix s k hs
  generalize ({ s with txIx := k } : State) = t at h0
  clear h
  induction n generalizing t with
  | zero => exact h0
  | succ n ih => exact ih _ (hstep _ h0)

theorem State.txSteps_keeps {R : State → Prop} {s : State} (n : Nat) (hs : R s) (hstep : ∀ t, R t → R t.txStep) :
    R (State.txSteps n s) := by
  induction n generalizing s with
  | zero => exact hs
  | succ n ih => exact ih (hstep _ hs)

/-! ### The trace and the receiver -/

@[simp] theorem Receiver.replay_append (r : Receiver) (a b : List Event) :
    r.replay (a ++ b) = (r.replay a).replay b := List.foldl_append

@[simp] theorem Receiver.replay_nil (r : Receiver) : r.replay [] = r := rfl

theorem shift_in (sr : Byte) (d : Bool) :
    (sr.extractLsb' 0 7 ++ BitVec.ofBool d : BitVec (7 + 1)) = (sr <<< 1) ||| (BitVec.ofBool d).setWidth 8 := by
  revert sr d; decide

/-- A line operation does to the lines and the receiver what the rule of the receiver says of its event (10_state.md R20,
R22). -/
theorem State.setLine_receiver (s : State) (n : Line) (b : Bool) :
    (s.setLine n b).receiver = s.receiver.react (.line n b) := by
  have h := shift_in s.sr s.data
  cases n <;> cases b <;> cases hc : s.clk <;> cases hs : s.stb <;>
    simp [State.setLine, State.receiver, State.emit, Receiver.react, hc, hs] <;> exact h

/-- From `s` to `t` the trace has only grown, and the lines and the receiver have done what the new events say. -/
def State.Grew (s t : State) : Prop := ∃ l, t.trace = s.trace ++ l ∧ t.receiver = s.receiver.replay l

theorem State.Grew.refl (s : State) : s.Grew s := ⟨[], by simp, rfl⟩

theorem State.Grew.trans {s t u : State} (h : s.Grew t) (h' : t.Grew u) : s.Grew u := by
  obtain ⟨l, hl, hr⟩ := h
  obtain ⟨l', hl', hr'⟩ := h'
  exact ⟨l ++ l', by rw [hl', hl, List.append_assoc], by rw [hr', hr, Receiver.replay_append]⟩

/-- A change of neither the trace nor the lines nor the receiver. -/
theorem State.Grew.of_same {s t : State} (h : t.trace = s.trace) (hr : t.receiver = s.receiver) : s.Grew t :=
  ⟨[], by simp [h], by simp [hr]⟩

theorem State.txStep_grew (s : State) : s.Grew s.txStep := by
  unfold State.txStep
  split
  · exact .refl s
  · exact ⟨[_], rfl, rfl⟩
  · exact ⟨[_], rfl, rfl⟩

theorem State.yield_grew (s : State) : s.Grew s.yield :=
  State.yield_keeps (R := s.Grew) (.refl s) (fun _ _ h => h.trans (.of_same rfl rfl))
    (fun t h => h.trans t.txStep_grew)

theorem State.drain_grew (s : State) : s.Grew s.drain := by
  obtain ⟨n, h⟩ := s.drain_spec
  rw [h]
  exact State.txSteps_keeps n (.refl s) (fun t ht => ht.trans t.txStep_grew)

theorem State.setLine_grew (s : State) (n : Line) (b : Bool) : s.Grew (s.setLine n b) :=
  ⟨[.line n b], by simp, s.setLine_receiver n b⟩

theorem State.settle_grew (s : State) (ms : Nat) : s.Grew (s.settle ms) :=
  s.yield_grew.trans ⟨[.settle ms], rfl, rfl⟩

theorem State.lineOp_grew (s : State) (n : Line) (b : Bool) : s.Grew (s.lineOp n b).state :=
  s.yield_grew.trans (State.unlessFault_keeps (R := s.yield.Grew) (.of_same rfl rfl)
    (fun h => h.trans (State.setLine_grew _ n b)))

theorem State.lineOps_grew (s : State) (ops : List (Line × Bool)) : s.Grew (s.lineOps ops).state := by
  induction ops generalizing s with
  | nil => exact .refl s
  | cons o rest ih => exact Run.andThen_keeps (s.lineOp_grew o.1 o.2) (fun t ht => ht.trans (ih t))

theorem State.shiftOut_grew (s : State) (v : Byte) : s.Grew (s.shiftOut v).state := s.lineOps_grew _

/-! ### The command agent's own events -/

@[simp] theorem State.txStep_commandTrace (s : State) : s.txStep.commandTrace = s.commandTrace := by
  unfold State.txStep State.commandTrace
  split <;> simp [State.emit, Event.ofCommandAgent]

@[simp] theorem State.yield_commandTrace (s : State) : s.yield.commandTrace = s.commandTrace :=
  State.yield_keeps (R := fun t => t.commandTrace = s.commandTrace) rfl (fun _ _ h => h)
    (fun t h => by rw [State.txStep_commandTrace, h])

@[simp] theorem State.drain_commandTrace (s : State) : s.drain.commandTrace = s.commandTrace := by
  obtain ⟨n, h⟩ := s.drain_spec
  rw [h]
  exact State.txSteps_keeps (R := fun t => t.commandTrace = s.commandTrace) n rfl
    (fun t ht => by rw [State.txStep_commandTrace, ht])

@[simp] theorem State.sampled_commandTrace (s : State) : s.sampled.commandTrace = s.commandTrace := rfl

@[simp] theorem State.setLine_commandTrace (s : State) (n : Line) (b : Bool) :
    (s.setLine n b).commandTrace = s.commandTrace ++ [.line n b] := by
  simp [State.commandTrace, Event.ofCommandAgent]

@[simp] theorem State.settle_commandTrace (s : State) (ms : Nat) :
    (s.settle ms).commandTrace = s.commandTrace ++ [.settle ms] := by
  rw [← s.yield_commandTrace]
  simp [State.commandTrace, State.settle, Event.ofCommandAgent]

/-! ### Line operations -/

/-- The event of a line operation. -/
def lineEvent (o : Line × Bool) : Event := .line o.1 o.2

theorem State.yield_receiver (s : State) : s.yield.receiver = s.receiver := by simp [State.receiver]

/-- One line operation: the sample is taken, and the line changes if the sample is 0 (41_config_register_ops.md R100). -/
theorem State.lineOp_cases (s : State) (n : Line) (b : Bool) :
    (s.fault = false ∧ s.lineOp n b = (s.yield.sampled.setLine n b).done) ∨
      (s.fault = true ∧ s.lineOp n b = s.yield.sampled.fail .peripheralFailure) := by
  have hf : s.yield.fault = s.fault := by simp [State.fault]
  unfold State.lineOp
  rcases State.unlessFault_cases s.yield .peripheralFailure (fun t => (t.setLine n b).done) with ⟨h, h'⟩ | ⟨h, h'⟩
  · exact .inl ⟨hf ▸ h, h'⟩
  · exact .inr ⟨hf ▸ h, h'⟩

/-- EVERYTHING a list of line operations can do: `k` of them are performed, their samples being 0; either that is all of
them, or sample `k` is 1, the run raises and nothing more is done. The lines and the receiver, the command agent's events and
the count of samples follow (R100, R111). -/
theorem State.lineOps_spec (s : State) (ops : List (Line × Bool)) :
    ∃ k, k ≤ ops.length ∧ s.NoFaultFor k ∧
      (s.lineOps ops).state.receiver = s.receiver.replay ((ops.take k).map lineEvent) ∧
      (s.lineOps ops).state.commandTrace = s.commandTrace ++ (ops.take k).map lineEvent ∧
      ((k = ops.length ∧ (s.lineOps ops).ending = .done ∧ (s.lineOps ops).state.faultIx = s.faultIx + k) ∨
        (k < ops.length ∧ s.faultAt (s.faultIx + k) = true ∧ (s.lineOps ops).ending = .raised .peripheralFailure ∧
          (s.lineOps ops).state.faultIx = s.faultIx + k + 1)) := by
  induction ops generalizing s with
  | nil => exact ⟨0, Nat.le_refl _, fun _ h => absurd h (Nat.not_lt_zero _), rfl, by simp [State.lineOps, State.done],
      .inl ⟨rfl, rfl, rfl⟩⟩
  | cons o rest ih =>
    obtain ⟨n, b⟩ := o
    rcases s.lineOp_cases n b with ⟨hf, ho⟩ | ⟨hf, ho⟩
    · have hrun : s.lineOps ((n, b) :: rest) = (s.yield.sampled.setLine n b).lineOps rest := by
        simp [State.lineOps, ho]
      obtain ⟨k, hk, hno, hrec, htr, hend⟩ := ih (s.yield.sampled.setLine n b)
      have hix : (s.yield.sampled.setLine n b).faultIx = s.faultIx + 1 := by simp
      have hat : ∀ m, (s.yield.sampled.setLine n b).faultAt m = s.faultAt m := by simp
      refine ⟨k + 1, by simpa using hk, ?_, ?_, ?_, ?_⟩
      · intro j hj
        cases j with
        | zero => exact hf
        | succ j =>
          have := hno j (by omega)
          rw [hix, hat] at this
          rw [← this]; congr 1; omega
      · rw [hrun, hrec, State.setLine_receiver]
        have hy : s.yield.sampled.receiver = s.receiver := s.yield_receiver
        rw [hy]; rfl
      · rw [hrun, htr]; simp [lineEvent]
      · rw [hrun]
        rcases hend with ⟨h1, h2, h3⟩ | ⟨h1, h2, h3, h4⟩
        · exact .inl ⟨by simp [h1], h2, by rw [h3, hix]; omega⟩
        · refine .inr ⟨by simpa using h1, ?_, h3, by rw [h4, hix]; omega⟩
          rw [hix, hat] at h2; rw [← h2]; congr 1; omega
    · have hrun : s.lineOps ((n, b) :: rest) = s.yield.sampled.fail .peripheralFailure := by
        simp [State.lineOps, ho]
      refine ⟨0, Nat.zero_le _, fun _ h => absurd h (Nat.not_lt_zero _), ?_, ?_, .inr ⟨by simp, hf, by rw [hrun]; rfl, ?_⟩⟩
      · rw [hrun]; exact s.yield_receiver
      · rw [hrun]
        show s.yield.sampled.commandTrace = _
        simp
      · rw [hrun]
        show s.yield.sampled.faultIx = _
        simp

/-- The 26 operations of a ShiftOut, as events, are the list of 41_config_register_ops.md R110. -/
theorem shiftOps_events (v : Byte) : (shiftOps v).map lineEvent = writeEvents v := rfl

@[simp] theorem shiftOps_length (v : Byte) : (shiftOps v).length = 26 := rfl

/-- Eight shifts leave nothing of the old shift stage (R101). -/
theorem eight_shifts (sr v : Byte) :
    (List.foldl (fun (x : Byte) i => (x <<< 1) ||| (BitVec.ofBool (v.getLsbD i)).setWidth 8) sr [7, 6, 5, 4, 3, 2, 1, 0]) = v := by
  apply BitVec.eq_of_getLsbD_eq
  intro i hi
  simp only [List.foldl, BitVec.getLsbD_or, BitVec.getLsbD_shiftLeft, BitVec.getLsbD_setWidth, BitVec.getLsbD_ofBool]
  have : i = 0 ∨ i = 1 ∨ i = 2 ∨ i = 3 ∨ i = 4 ∨ i = 5 ∨ i = 6 ∨ i = 7 := by omega
  rcases this with h | h | h | h | h | h | h | h <;> subst h <;> simp

/-- The events of a completed ShiftOut leave `SR = v`, `Q = v`, whatever the lines and the receiver held (R101), and the
lines at `STB = 1`, `CLK = 1`, `DATA = v[0]` (R110). -/
theorem Receiver.replay_writeEvents (r : Receiver) (v : Byte) :
    r.replay (writeEvents v) = ⟨v.getLsbD 0, true, true, v, v⟩ := by
  have h := eight_shifts r.sr v
  simp only [List.foldl] at h
  simp only [Receiver.replay, writeEvents, List.foldl, Receiver.react, Bool.false_eq_true, if_false, h]

end Sys2Proof.Machine
end

