-- ==== Sys2Proof/Laws/Frames.lean ====
section
/-! SUPPORT. Frames: which fields each shared operation of the hardware commands leaves alone, one lemma per operation and
field, and that each of them only lets the trace grow. -/

namespace Sys2Proof.Machine

/-- A reading of the state that no line operation and no scheduling point changes. -/
structure Unseen {α : Type} (f : State → α) : Prop where
  setLine : ∀ s n b, f (State.setLine s n b) = f s
  sampled : ∀ s, f (State.sampled s) = f s
  yield : ∀ s, f (State.yield s) = f s

theorem Unseen.lineOp {α : Type} {f : State → α} (h : Unseen f) (s : State) (n : Line) (b : Bool) :
    f (s.lineOp n b).state = f s := by
  rcases s.lineOp_cases n b with ⟨-, e⟩ | ⟨-, e⟩ <;> rw [e]
  · show f (s.yield.sampled.setLine n b) = f s
    rw [h.setLine, h.sampled, h.yield]
  · show f s.yield.sampled = f s
    rw [h.sampled, h.yield]

theorem Unseen.lineOps {α : Type} {f : State → α} (h : Unseen f) (s : State) (ops : List (Line × Bool)) :
    f (s.lineOps ops).state = f s := by
  induction ops generalizing s with
  | nil => rfl
  | cons o rest ih =>
    exact Run.andThen_keeps (R := fun t => f t = f s) (h.lineOp s o.1 o.2) (fun t ht => (ih t).trans ht)

theorem Unseen.shiftOut {α : Type} {f : State → α} (h : Unseen f) (s : State) (v : Byte) :
    f (s.shiftOut v).state = f s := h.lineOps s _

theorem unseen_env : Unseen State.env := ⟨by simp, by simp, by simp⟩
theorem unseen_commands : Unseen State.commands := ⟨by simp, by simp, by simp⟩
theorem unseen_held : Unseen State.held := ⟨by simp, by simp, by simp⟩
theorem unseen_fb : Unseen State.fb := ⟨by simp, by simp, by simp⟩
theorem unseen_cfg : Unseen State.cfg := ⟨by simp, by simp, by simp⟩
theorem unseen_pwr : Unseen State.pwr := ⟨by simp, by simp, by simp⟩
theorem unseen_slot : Unseen State.slot := ⟨by simp, by simp, by simp⟩
theorem unseen_prog : Unseen State.prog := ⟨by simp, by simp, by simp⟩
theorem unseen_status : Unseen State.status := ⟨by simp, by simp, by simp⟩
theorem unseen_rdata : Unseen State.rdata := ⟨by simp, by simp, by simp⟩

/-! ### A configuration command (41_config_register_ops.md R108, R109) -/

@[simp] theorem State.runCfg_cfg (s : State) (c : CfgCommand) : (s.runCfg c).state.cfg = cfgByte c s.cfg :=
  unseen_cfg.shiftOut _ _
@[simp] theorem State.runCfg_env (s : State) (c : CfgCommand) : (s.runCfg c).state.env = s.env :=
  unseen_env.shiftOut _ _
@[simp] theorem State.runCfg_commands (s : State) (c : CfgCommand) : (s.runCfg c).state.commands = s.commands :=
  unseen_commands.shiftOut _ _
@[simp] theorem State.runCfg_held (s : State) (c : CfgCommand) : (s.runCfg c).state.held = s.held :=
  unseen_held.shiftOut _ _
@[simp] theorem State.runCfg_fb (s : State) (c : CfgCommand) : (s.runCfg c).state.fb = s.fb :=
  unseen_fb.shiftOut _ _
@[simp] theorem State.runCfg_pwr (s : State) (c : CfgCommand) : (s.runCfg c).state.pwr = s.pwr :=
  unseen_pwr.shiftOut _ _
@[simp] theorem State.runCfg_slot (s : State) (c : CfgCommand) : (s.runCfg c).state.slot = s.slot :=
  unseen_slot.shiftOut _ _
@[simp] theorem State.runCfg_prog (s : State) (c : CfgCommand) : (s.runCfg c).state.prog = s.prog :=
  unseen_prog.shiftOut _ _
@[simp] theorem State.runCfg_status (s : State) (c : CfgCommand) : (s.runCfg c).state.status = s.status :=
  unseen_status.shiftOut _ _
@[simp] theorem State.runCfg_rdata (s : State) (c : CfgCommand) : (s.runCfg c).state.rdata = s.rdata :=
  unseen_rdata.shiftOut _ _

theorem State.runCfg_grew (s : State) (c : CfgCommand) : s.Grew (s.runCfg c).state :=
  (State.Grew.of_same (t := { s with cfg := cfgByte c s.cfg }) rfl rfl).trans (State.shiftOut_grew _ _)

/-! ### A settle (43_power_and_panel_ops.md R144) -/

@[simp] theorem State.settle_env (s : State) (ms : Nat) : (s.settle ms).env = s.env := by simp [State.settle]
@[simp] theorem State.settle_commands (s : State) (ms : Nat) : (s.settle ms).commands = s.commands := by simp [State.settle]
@[simp] theorem State.settle_held (s : State) (ms : Nat) : (s.settle ms).held = s.held := by simp [State.settle]
@[simp] theorem State.settle_fb (s : State) (ms : Nat) : (s.settle ms).fb = s.fb := by simp [State.settle]
@[simp] theorem State.settle_cfg (s : State) (ms : Nat) : (s.settle ms).cfg = s.cfg := by simp [State.settle]
@[simp] theorem State.settle_pwr (s : State) (ms : Nat) : (s.settle ms).pwr = s.pwr := by simp [State.settle]
@[simp] theorem State.settle_slot (s : State) (ms : Nat) : (s.settle ms).slot = s.slot := by simp [State.settle]
@[simp] theorem State.settle_prog (s : State) (ms : Nat) : (s.settle ms).prog = s.prog := by simp [State.settle]
@[simp] theorem State.settle_status (s : State) (ms : Nat) : (s.settle ms).status = s.status := by simp [State.settle]
@[simp] theorem State.settle_rdata (s : State) (ms : Nat) : (s.settle ms).rdata = s.rdata := by simp [State.settle]
@[simp] theorem State.settle_faultIx (s : State) (ms : Nat) : (s.settle ms).faultIx = s.faultIx := by simp [State.settle]
@[simp] theorem State.settle_data (s : State) (ms : Nat) : (s.settle ms).data = s.data := by simp [State.settle]
@[simp] theorem State.settle_clk (s : State) (ms : Nat) : (s.settle ms).clk = s.clk := by simp [State.settle]
@[simp] theorem State.settle_stb (s : State) (ms : Nat) : (s.settle ms).stb = s.stb := by simp [State.settle]
@[simp] theorem State.settle_sr (s : State) (ms : Nat) : (s.settle ms).sr = s.sr := by simp [State.settle]
@[simp] theorem State.settle_q (s : State) (ms : Nat) : (s.settle ms).q = s.q := by simp [State.settle]

@[simp] theorem State.settle_faultAt (s : State) (ms n : Nat) : (s.settle ms).faultAt n = s.faultAt n :=
  State.faultAt_congr (by simp) n

/-! ### A write with its settle -/

@[simp] theorem State.writeAndSettle_env (s : State) (c : CfgCommand) (ms : Nat) :
    (s.writeAndSettle c ms).state.env = s.env :=
  Run.andThen_keeps (R := fun t => t.env = s.env) (by simp) (fun t ht => by simpa [State.done] using ht)
@[simp] theorem State.writeAndSettle_commands (s : State) (c : CfgCommand) (ms : Nat) :
    (s.writeAndSettle c ms).state.commands = s.commands :=
  Run.andThen_keeps (R := fun t => t.commands = s.commands) (by simp) (fun t ht => by simpa [State.done] using ht)
@[simp] theorem State.writeAndSettle_held (s : State) (c : CfgCommand) (ms : Nat) :
    (s.writeAndSettle c ms).state.held = s.held :=
  Run.andThen_keeps (R := fun t => t.held = s.held) (by simp) (fun t ht => by simpa [State.done] using ht)
@[simp] theorem State.writeAndSettle_fb (s : State) (c : CfgCommand) (ms : Nat) :
    (s.writeAndSettle c ms).state.fb = s.fb :=
  Run.andThen_keeps (R := fun t => t.fb = s.fb) (by simp) (fun t ht => by simpa [State.done] using ht)
@[simp] theorem State.writeAndSettle_cfg (s : State) (c : CfgCommand) (ms : Nat) :
    (s.writeAndSettle c ms).state.cfg = cfgByte c s.cfg :=
  Run.andThen_keeps (R := fun t => t.cfg = cfgByte c s.cfg) (by simp) (fun t ht => by simpa [State.done] using ht)
@[simp] theorem State.writeAndSettle_pwr (s : State) (c : CfgCommand) (ms : Nat) :
    (s.writeAndSettle c ms).state.pwr = s.pwr :=
  Run.andThen_keeps (R := fun t => t.pwr = s.pwr) (by simp) (fun t ht => by simpa [State.done] using ht)
@[simp] theorem State.writeAndSettle_slot (s : State) (c : CfgCommand) (ms : Nat) :
    (s.writeAndSettle c ms).state.slot = s.slot :=
  Run.andThen_keeps (R := fun t => t.slot = s.slot) (by simp) (fun t ht => by simpa [State.done] using ht)
@[simp] theorem State.writeAndSettle_prog (s : State) (c : CfgCommand) (ms : Nat) :
    (s.writeAndSettle c ms).state.prog = s.prog :=
  Run.andThen_keeps (R := fun t => t.prog = s.prog) (by simp) (fun t ht => by simpa [State.done] using ht)
@[simp] theorem State.writeAndSettle_status (s : State) (c : CfgCommand) (ms : Nat) :
    (s.writeAndSettle c ms).state.status = s.status :=
  Run.andThen_keeps (R := fun t => t.status = s.status) (by simp) (fun t ht => by simpa [State.done] using ht)
@[simp] theorem State.writeAndSettle_rdata (s : State) (c : CfgCommand) (ms : Nat) :
    (s.writeAndSettle c ms).state.rdata = s.rdata :=
  Run.andThen_keeps (R := fun t => t.rdata = s.rdata) (by simp) (fun t ht => by simpa [State.done] using ht)

theorem State.writeAndSettle_grew (s : State) (c : CfgCommand) (ms : Nat) : s.Grew (s.writeAndSettle c ms).state :=
  Run.andThen_keeps (R := s.Grew) (s.runCfg_grew c) (fun t ht => ht.trans (t.settle_grew ms))

/-! ### The pulse channel (42_pulse_ops.md R121) -/

/-- A reading of the state that no step of PULSE changes. -/
structure UnseenByPulse {α : Type} (f : State → α) : Prop where
  slot : ∀ s v, f { s with slot := v } = f s
  sampled : ∀ s, f (State.sampled s) = f s
  build : ∀ s h l, f (State.build s h l) = f s
  start : ∀ s l, f (({ s with tx := .running l } : State).emit (.txStart l)) = f s
  yield : ∀ s, f (State.yield s) = f s
  drain : ∀ s, f (State.drain s) = f s

theorem UnseenByPulse.runPulse {α : Type} {f : State → α} (h : UnseenByPulse f) (s : State) (hi lo : BitVec 16)
    (w : Bool) : f (s.runPulse hi lo w).state = f s := by
  have hacq : ∀ t : State, f t.acquire.state = f t := by
    intro t
    unfold State.acquire
    split
    · rfl
    · split
      · rfl
      · exact State.unlessFault_keeps (R := fun u => f u = f t) (h.sampled t) (fun e => (h.slot _ _).trans e)
  have hstart : ∀ (t : State) l, f (t.start l).state = f t := fun t l =>
    State.unlessFault_keeps (R := fun u => f u = f t) ((h.sampled _).trans (h.slot t .empty)) (fun e => (h.start _ _).trans e)
  have hwait : ∀ t : State, f t.waitAndReclaim.state = f t := by
    intro t
    refine Run.andThen_keeps (R := fun u => f u = f t) ?_ (fun u hu => ?_)
    · unfold State.waitIdle
      have : f (if t.env.fairTx = true then t.drain else t.yield) = f t := by
        split
        · exact h.drain t
        · exact h.yield t
      dsimp only
      split <;> exact this
    · exact State.unlessFault_keeps (R := fun v => f v = f t) ((h.sampled _).trans hu) (fun e => (h.slot _ _).trans e)
  refine Run.andThen_keeps (R := fun u => f u = f s) (hacq s) (fun t ht => ?_)
  refine Run.andThen_keeps (R := fun u => f u = f s) ?_ (fun u hu => ?_)
  · exact (hstart _ _).trans ((h.build t hi lo).trans ht)
  · split
    · exact (hwait u).trans hu
    · exact hu

@[simp] theorem State.runPulse_env (s : State) (hi lo : BitVec 16) (w : Bool) : (s.runPulse hi lo w).state.env = s.env :=
  UnseenByPulse.runPulse (f := State.env) ⟨fun _ _ => rfl, fun _ => rfl, fun _ _ _ => rfl, fun _ _ => rfl, by simp, by simp⟩ s hi lo w
@[simp] theorem State.runPulse_commands (s : State) (hi lo : BitVec 16) (w : Bool) : (s.runPulse hi lo w).state.commands = s.commands :=
  UnseenByPulse.runPulse (f := State.commands) ⟨fun _ _ => rfl, fun _ => rfl, fun _ _ _ => rfl, fun _ _ => rfl, by simp, by simp⟩ s hi lo w
@[simp] theorem State.runPulse_held (s : State) (hi lo : BitVec 16) (w : Bool) : (s.runPulse hi lo w).state.held = s.held :=
  UnseenByPulse.runPulse (f := State.held) ⟨fun _ _ => rfl, fun _ => rfl, fun _ _ _ => rfl, fun _ _ => rfl, by simp, by simp⟩ s hi lo w
@[simp] theorem State.runPulse_fb (s : State) (hi lo : BitVec 16) (w : Bool) : (s.runPulse hi lo w).state.fb = s.fb :=
  UnseenByPulse.runPulse (f := State.fb) ⟨fun _ _ => rfl, fun _ => rfl, fun _ _ _ => rfl, fun _ _ => rfl, by simp, by simp⟩ s hi lo w
@[simp] theorem State.runPulse_cfg (s : State) (hi lo : BitVec 16) (w : Bool) : (s.runPulse hi lo w).state.cfg = s.cfg :=
  UnseenByPulse.runPulse (f := State.cfg) ⟨fun _ _ => rfl, fun _ => rfl, fun _ _ _ => rfl, fun _ _ => rfl, by simp, by simp⟩ s hi lo w
@[simp] theorem State.runPulse_pwr (s : State) (hi lo : BitVec 16) (w : Bool) : (s.runPulse hi lo w).state.pwr = s.pwr :=
  UnseenByPulse.runPulse (f := State.pwr) ⟨fun _ _ => rfl, fun _ => rfl, fun _ _ _ => rfl, fun _ _ => rfl, by simp, by simp⟩ s hi lo w
@[simp] theorem State.runPulse_status (s : State) (hi lo : BitVec 16) (w : Bool) : (s.runPulse hi lo w).state.status = s.status :=
  UnseenByPulse.runPulse (f := State.status) ⟨fun _ _ => rfl, fun _ => rfl, fun _ _ _ => rfl, fun _ _ => rfl, by simp, by simp⟩ s hi lo w
@[simp] theorem State.runPulse_rdata (s : State) (hi lo : BitVec 16) (w : Bool) : (s.runPulse hi lo w).state.rdata = s.rdata :=
  UnseenByPulse.runPulse (f := State.rdata) ⟨fun _ _ => rfl, fun _ => rfl, fun _ _ _ => rfl, fun _ _ => rfl, by simp, by simp⟩ s hi lo w
@[simp] theorem State.runPulse_data (s : State) (hi lo : BitVec 16) (w : Bool) : (s.runPulse hi lo w).state.data = s.data :=
  UnseenByPulse.runPulse (f := State.data) ⟨fun _ _ => rfl, fun _ => rfl, fun _ _ _ => rfl, fun _ _ => rfl, by simp, by simp⟩ s hi lo w
@[simp] theorem State.runPulse_clk (s : State) (hi lo : BitVec 16) (w : Bool) : (s.runPulse hi lo w).state.clk = s.clk :=
  UnseenByPulse.runPulse (f := State.clk) ⟨fun _ _ => rfl, fun _ => rfl, fun _ _ _ => rfl, fun _ _ => rfl, by simp, by simp⟩ s hi lo w
@[simp] theorem State.runPulse_stb (s : State) (hi lo : BitVec 16) (w : Bool) : (s.runPulse hi lo w).state.stb = s.stb :=
  UnseenByPulse.runPulse (f := State.stb) ⟨fun _ _ => rfl, fun _ => rfl, fun _ _ _ => rfl, fun _ _ => rfl, by simp, by simp⟩ s hi lo w
@[simp] theorem State.runPulse_sr (s : State) (hi lo : BitVec 16) (w : Bool) : (s.runPulse hi lo w).state.sr = s.sr :=
  UnseenByPulse.runPulse (f := State.sr) ⟨fun _ _ => rfl, fun _ => rfl, fun _ _ _ => rfl, fun _ _ => rfl, by simp, by simp⟩ s hi lo w
@[simp] theorem State.runPulse_q (s : State) (hi lo : BitVec 16) (w : Bool) : (s.runPulse hi lo w).state.q = s.q :=
  UnseenByPulse.runPulse (f := State.q) ⟨fun _ _ => rfl, fun _ => rfl, fun _ _ _ => rfl, fun _ _ => rfl, by simp, by simp⟩ s hi lo w

theorem State.start_grew (s : State) (l : List Seg) : s.Grew (s.start l).state :=
  State.unlessFault_keeps (R := s.Grew) (.of_same rfl rfl) (fun h => h.trans ⟨[.txStart l], rfl, rfl⟩)

theorem State.acquire_grew (s : State) : s.Grew s.acquire.state := by
  unfold State.acquire
  split
  · exact .refl s
  · split
    · exact .refl s
    · exact State.unlessFault_keeps (R := s.Grew) (.of_same rfl rfl) (fun h => h.trans (.of_same rfl rfl))

theorem State.waitAndReclaim_grew (s : State) : s.Grew s.waitAndReclaim.state := by
  refine Run.andThen_keeps (R := s.Grew) ?_ (fun t ht => ?_)
  · unfold State.waitIdle
    have : s.Grew (if s.env.fairTx = true then s.drain else s.yield) := by
      split
      · exact s.drain_grew
      · exact s.yield_grew
    dsimp only
    split <;> exact this
  · exact State.unlessFault_keeps (R := s.Grew) (ht.trans (.of_same rfl rfl)) (fun h => h.trans (.of_same rfl rfl))

theorem State.runPulse_grew (s : State) (hi lo : BitVec 16) (w : Bool) : s.Grew (s.runPulse hi lo w).state := by
  refine Run.andThen_keeps (R := s.Grew) s.acquire_grew (fun t ht => ?_)
  refine Run.andThen_keeps (R := s.Grew) ?_ (fun u hu => ?_)
  · exact ht.trans ((State.Grew.of_same (t := t.build hi lo) rfl rfl).trans (State.start_grew _ _))
  · split
    · exact hu.trans u.waitAndReclaim_grew
    · exact hu

/-! ### Schedules and power sequences (43_power_and_panel_ops.md R147, R148) -/

@[simp] theorem State.runStep_env (s : State) (st : SchedStep) : (s.runStep st).state.env = s.env := by
  cases st with
  | pulse h l w ne => exact State.runPulse_env s h l w
  | cfg c => exact State.runCfg_env s c
  | settle ms => exact State.settle_env s ms
  | bus tag => exact State.unlessFault_keeps (R := fun t => t.env = s.env) rfl (fun h => h)
@[simp] theorem State.runSched_env (s : State) (l : List SchedStep) : (s.runSched l).state.env = s.env := by
  induction l generalizing s with
  | nil => rfl
  | cons st rest ih =>
    exact Run.andThen_keeps (R := fun t => t.env = s.env) (by simp) (fun t ht => (ih t).trans ht)
@[simp] theorem State.runStep_commands (s : State) (st : SchedStep) : (s.runStep st).state.commands = s.commands := by
  cases st with
  | pulse h l w ne => exact State.runPulse_commands s h l w
  | cfg c => exact State.runCfg_commands s c
  | settle ms => exact State.settle_commands s ms
  | bus tag => exact State.unlessFault_keeps (R := fun t => t.commands = s.commands) rfl (fun h => h)
@[simp] theorem State.runSched_commands (s : State) (l : List SchedStep) : (s.runSched l).state.commands = s.commands := by
  induction l generalizing s with
  | nil => rfl
  | cons st rest ih =>
    exact Run.andThen_keeps (R := fun t => t.commands = s.commands) (by simp) (fun t ht => (ih t).trans ht)
@[simp] theorem State.runStep_held (s : State) (st : SchedStep) : (s.runStep st).state.held = s.held := by
  cases st with
  | pulse h l w ne => exact State.runPulse_held s h l w
  | cfg c => exact State.runCfg_held s c
  | settle ms => exact State.settle_held s ms
  | bus tag => exact State.unlessFault_keeps (R := fun t => t.held = s.held) rfl (fun h => h)
@[simp] theorem State.runSched_held (s : State) (l : List SchedStep) : (s.runSched l).state.held = s.held := by
  induction l generalizing s with
  | nil => rfl
  | cons st rest ih =>
    exact Run.andThen_keeps (R := fun t => t.held = s.held) (by simp) (fun t ht => (ih t).trans ht)
@[simp] theorem State.runStep_fb (s : State) (st : SchedStep) : (s.runStep st).state.fb = s.fb := by
  cases st with
  | pulse h l w ne => exact State.runPulse_fb s h l w
  | cfg c => exact State.runCfg_fb s c
  | settle ms => exact State.settle_fb s ms
  | bus tag => exact State.unlessFault_keeps (R := fun t => t.fb = s.fb) rfl (fun h => h)
@[simp] theorem State.runSched_fb (s : State) (l : List SchedStep) : (s.runSched l).state.fb = s.fb := by
  induction l generalizing s with
  | nil => rfl
  | cons st rest ih =>
    exact Run.andThen_keeps (R := fun t => t.fb = s.fb) (by simp) (fun t ht => (ih t).trans ht)
@[simp] theorem State.runStep_pwr (s : State) (st : SchedStep) : (s.runStep st).state.pwr = s.pwr := by
  cases st with
  | pulse h l w ne => exact State.runPulse_pwr s h l w
  | cfg c => exact State.runCfg_pwr s c
  | settle ms => exact State.settle_pwr s ms
  | bus tag => exact State.unlessFault_keeps (R := fun t => t.pwr = s.pwr) rfl (fun h => h)
@[simp] theorem State.runSched_pwr (s : State) (l : List SchedStep) : (s.runSched l).state.pwr = s.pwr := by
  induction l generalizing s with
  | nil => rfl
  | cons st rest ih =>
    exact Run.andThen_keeps (R := fun t => t.pwr = s.pwr) (by simp) (fun t ht => (ih t).trans ht)
@[simp] theorem State.runStep_status (s : State) (st : SchedStep) : (s.runStep st).state.status = s.status := by
  cases st with
  | pulse h l w ne => exact State.runPulse_status s h l w
  | cfg c => exact State.runCfg_status s c
  | settle ms => exact State.settle_status s ms
  | bus tag => exact State.unlessFault_keeps (R := fun t => t.status = s.status) rfl (fun h => h)
@[simp] theorem State.runSched_status (s : State) (l : List SchedStep) : (s.runSched l).state.status = s.status := by
  induction l generalizing s with
  | nil => rfl
  | cons st rest ih =>
    exact Run.andThen_keeps (R := fun t => t.status = s.status) (by simp) (fun t ht => (ih t).trans ht)
@[simp] theorem State.runStep_rdata (s : State) (st : SchedStep) : (s.runStep st).state.rdata = s.rdata := by
  cases st with
  | pulse h l w ne => exact State.runPulse_rdata s h l w
  | cfg c => exact State.runCfg_rdata s c
  | settle ms => exact State.settle_rdata s ms
  | bus tag => exact State.unlessFault_keeps (R := fun t => t.rdata = s.rdata) rfl (fun h => h)
@[simp] theorem State.runSched_rdata (s : State) (l : List SchedStep) : (s.runSched l).state.rdata = s.rdata := by
  induction l generalizing s with
  | nil => rfl
  | cons st rest ih =>
    exact Run.andThen_keeps (R := fun t => t.rdata = s.rdata) (by simp) (fun t ht => (ih t).trans ht)

theorem State.runStep_grew (s : State) (st : SchedStep) : s.Grew (s.runStep st).state := by
  cases st with
  | pulse h l w ne => exact s.runPulse_grew h l w
  | cfg c => exact s.runCfg_grew c
  | settle ms => exact s.settle_grew ms
  | bus tag => exact State.unlessFault_keeps (R := s.Grew) (.of_same rfl rfl) (fun h => h.trans ⟨[.bus tag], rfl, rfl⟩)

theorem State.runSched_grew (s : State) (l : List SchedStep) : s.Grew (s.runSched l).state := by
  induction l generalizing s with
  | nil => exact .refl s
  | cons st rest ih =>
    exact Run.andThen_keeps (R := s.Grew) (s.yield_grew.trans (State.runStep_grew _ st)) (fun t ht => ht.trans (ih t))

@[simp] theorem State.runPowerOn_env (s : State) : s.runPowerOn.state.env = s.env := by
  unfold State.runPowerOn
  split
  · rfl
  · exact Run.andThen_keeps (R := fun t => t.env = s.env)
      (Run.andThen_keeps (R := fun t => t.env = s.env) (by simp) (fun t ht => by simpa using ht))
      (fun t ht => Run.andThen_keeps (R := fun t => t.env = s.env) (by simpa using ht) (fun u hu => hu))
@[simp] theorem State.runPowerOn_commands (s : State) : s.runPowerOn.state.commands = s.commands := by
  unfold State.runPowerOn
  split
  · rfl
  · exact Run.andThen_keeps (R := fun t => t.commands = s.commands)
      (Run.andThen_keeps (R := fun t => t.commands = s.commands) (by simp) (fun t ht => by simpa using ht))
      (fun t ht => Run.andThen_keeps (R := fun t => t.commands = s.commands) (by simpa using ht) (fun u hu => hu))
@[simp] theorem State.runPowerOn_held (s : State) : s.runPowerOn.state.held = s.held := by
  unfold State.runPowerOn
  split
  · rfl
  · exact Run.andThen_keeps (R := fun t => t.held = s.held)
      (Run.andThen_keeps (R := fun t => t.held = s.held) (by simp) (fun t ht => by simpa using ht))
      (fun t ht => Run.andThen_keeps (R := fun t => t.held = s.held) (by simpa using ht) (fun u hu => hu))
@[simp] theorem State.runPowerOn_fb (s : State) : s.runPowerOn.state.fb = s.fb := by
  unfold State.runPowerOn
  split
  · rfl
  · exact Run.andThen_keeps (R := fun t => t.fb = s.fb)
      (Run.andThen_keeps (R := fun t => t.fb = s.fb) (by simp) (fun t ht => by simpa using ht))
      (fun t ht => Run.andThen_keeps (R := fun t => t.fb = s.fb) (by simpa using ht) (fun u hu => hu))
@[simp] theorem State.runPowerOn_slot (s : State) : s.runPowerOn.state.slot = s.slot := by
  unfold State.runPowerOn
  split
  · rfl
  · exact Run.andThen_keeps (R := fun t => t.slot = s.slot)
      (Run.andThen_keeps (R := fun t => t.slot = s.slot) (by simp) (fun t ht => by simpa using ht))
      (fun t ht => Run.andThen_keeps (R := fun t => t.slot = s.slot) (by simpa using ht) (fun u hu => hu))
@[simp] theorem State.runPowerOn_prog (s : State) : s.runPowerOn.state.prog = s.prog := by
  unfold State.runPowerOn
  split
  · rfl
  · exact Run.andThen_keeps (R := fun t => t.prog = s.prog)
      (Run.andThen_keeps (R := fun t => t.prog = s.prog) (by simp) (fun t ht => by simpa using ht))
      (fun t ht => Run.andThen_keeps (R := fun t => t.prog = s.prog) (by simpa using ht) (fun u hu => hu))
@[simp] theorem State.runPowerOn_status (s : State) : s.runPowerOn.state.status = s.status := by
  unfold State.runPowerOn
  split
  · rfl
  · exact Run.andThen_keeps (R := fun t => t.status = s.status)
      (Run.andThen_keeps (R := fun t => t.status = s.status) (by simp) (fun t ht => by simpa using ht))
      (fun t ht => Run.andThen_keeps (R := fun t => t.status = s.status) (by simpa using ht) (fun u hu => hu))
@[simp] theorem State.runPowerOn_rdata (s : State) : s.runPowerOn.state.rdata = s.rdata := by
  unfold State.runPowerOn
  split
  · rfl
  · exact Run.andThen_keeps (R := fun t => t.rdata = s.rdata)
      (Run.andThen_keeps (R := fun t => t.rdata = s.rdata) (by simp) (fun t ht => by simpa using ht))
      (fun t ht => Run.andThen_keeps (R := fun t => t.rdata = s.rdata) (by simpa using ht) (fun u hu => hu))
theorem State.runPowerOn_grew (s : State) : s.Grew s.runPowerOn.state := by
  unfold State.runPowerOn
  split
  · exact .refl s
  · exact Run.andThen_keeps (R := s.Grew)
      (Run.andThen_keeps (R := s.Grew) ((State.Grew.of_same rfl rfl).trans (State.writeAndSettle_grew _ _ _))
        (fun t ht => ht.trans (t.writeAndSettle_grew _ _)))
      (fun t ht => Run.andThen_keeps (R := s.Grew) (ht.trans (t.writeAndSettle_grew _ _))
        (fun u hu => hu.trans (.of_same rfl rfl)))
@[simp] theorem State.runPowerOff_env (s : State) : s.runPowerOff.state.env = s.env := by
  unfold State.runPowerOff
  split
  · rfl
  · exact Run.andThen_keeps (R := fun t => t.env = s.env)
      (Run.andThen_keeps (R := fun t => t.env = s.env) (by simp) (fun t ht => by simpa using ht))
      (fun t ht => Run.andThen_keeps (R := fun t => t.env = s.env) (by simpa using ht) (fun u hu => hu))
@[simp] theorem State.runPowerOff_commands (s : State) : s.runPowerOff.state.commands = s.commands := by
  unfold State.runPowerOff
  split
  · rfl
  · exact Run.andThen_keeps (R := fun t => t.commands = s.commands)
      (Run.andThen_keeps (R := fun t => t.commands = s.commands) (by simp) (fun t ht => by simpa using ht))
      (fun t ht => Run.andThen_keeps (R := fun t => t.commands = s.commands) (by simpa using ht) (fun u hu => hu))
@[simp] theorem State.runPowerOff_held (s : State) : s.runPowerOff.state.held = s.held := by
  unfold State.runPowerOff
  split
  · rfl
  · exact Run.andThen_keeps (R := fun t => t.held = s.held)
      (Run.andThen_keeps (R := fun t => t.held = s.held) (by simp) (fun t ht => by simpa using ht))
      (fun t ht => Run.andThen_keeps (R := fun t => t.held = s.held) (by simpa using ht) (fun u hu => hu))
@[simp] theorem State.runPowerOff_fb (s : State) : s.runPowerOff.state.fb = s.fb := by
  unfold State.runPowerOff
  split
  · rfl
  · exact Run.andThen_keeps (R := fun t => t.fb = s.fb)
      (Run.andThen_keeps (R := fun t => t.fb = s.fb) (by simp) (fun t ht => by simpa using ht))
      (fun t ht => Run.andThen_keeps (R := fun t => t.fb = s.fb) (by simpa using ht) (fun u hu => hu))
@[simp] theorem State.runPowerOff_slot (s : State) : s.runPowerOff.state.slot = s.slot := by
  unfold State.runPowerOff
  split
  · rfl
  · exact Run.andThen_keeps (R := fun t => t.slot = s.slot)
      (Run.andThen_keeps (R := fun t => t.slot = s.slot) (by simp) (fun t ht => by simpa using ht))
      (fun t ht => Run.andThen_keeps (R := fun t => t.slot = s.slot) (by simpa using ht) (fun u hu => hu))
@[simp] theorem State.runPowerOff_prog (s : State) : s.runPowerOff.state.prog = s.prog := by
  unfold State.runPowerOff
  split
  · rfl
  · exact Run.andThen_keeps (R := fun t => t.prog = s.prog)
      (Run.andThen_keeps (R := fun t => t.prog = s.prog) (by simp) (fun t ht => by simpa using ht))
      (fun t ht => Run.andThen_keeps (R := fun t => t.prog = s.prog) (by simpa using ht) (fun u hu => hu))
@[simp] theorem State.runPowerOff_status (s : State) : s.runPowerOff.state.status = s.status := by
  unfold State.runPowerOff
  split
  · rfl
  · exact Run.andThen_keeps (R := fun t => t.status = s.status)
      (Run.andThen_keeps (R := fun t => t.status = s.status) (by simp) (fun t ht => by simpa using ht))
      (fun t ht => Run.andThen_keeps (R := fun t => t.status = s.status) (by simpa using ht) (fun u hu => hu))
@[simp] theorem State.runPowerOff_rdata (s : State) : s.runPowerOff.state.rdata = s.rdata := by
  unfold State.runPowerOff
  split
  · rfl
  · exact Run.andThen_keeps (R := fun t => t.rdata = s.rdata)
      (Run.andThen_keeps (R := fun t => t.rdata = s.rdata) (by simp) (fun t ht => by simpa using ht))
      (fun t ht => Run.andThen_keeps (R := fun t => t.rdata = s.rdata) (by simpa using ht) (fun u hu => hu))
theorem State.runPowerOff_grew (s : State) : s.Grew s.runPowerOff.state := by
  unfold State.runPowerOff
  split
  · exact .refl s
  · exact Run.andThen_keeps (R := s.Grew)
      (Run.andThen_keeps (R := s.Grew) ((State.Grew.of_same rfl rfl).trans (State.writeAndSettle_grew _ _ _))
        (fun t ht => ht.trans (t.writeAndSettle_grew _ _)))
      (fun t ht => Run.andThen_keeps (R := s.Grew) (ht.trans (t.writeAndSettle_grew _ _))
        (fun u hu => hu.trans (.of_same rfl rfl)))
@[simp] theorem State.runRepairWith_env (s : State) (l : List SchedStep) : (s.runRepairWith l).state.env = s.env :=
  Run.andThen_keeps (R := fun t => t.env = s.env)
    (Run.andThen_keeps (R := fun t => t.env = s.env) (by simp) (fun t ht => by simpa using ht))
    (fun t ht => by simpa using ht)
@[simp] theorem State.runRepairWith_commands (s : State) (l : List SchedStep) : (s.runRepairWith l).state.commands = s.commands :=
  Run.andThen_keeps (R := fun t => t.commands = s.commands)
    (Run.andThen_keeps (R := fun t => t.commands = s.commands) (by simp) (fun t ht => by simpa using ht))
    (fun t ht => by simpa using ht)
@[simp] theorem State.runRepairWith_held (s : State) (l : List SchedStep) : (s.runRepairWith l).state.held = s.held :=
  Run.andThen_keeps (R := fun t => t.held = s.held)
    (Run.andThen_keeps (R := fun t => t.held = s.held) (by simp) (fun t ht => by simpa using ht))
    (fun t ht => by simpa using ht)
@[simp] theorem State.runRepairWith_fb (s : State) (l : List SchedStep) : (s.runRepairWith l).state.fb = s.fb :=
  Run.andThen_keeps (R := fun t => t.fb = s.fb)
    (Run.andThen_keeps (R := fun t => t.fb = s.fb) (by simp) (fun t ht => by simpa using ht))
    (fun t ht => by simpa using ht)
@[simp] theorem State.runRepairWith_status (s : State) (l : List SchedStep) : (s.runRepairWith l).state.status = s.status :=
  Run.andThen_keeps (R := fun t => t.status = s.status)
    (Run.andThen_keeps (R := fun t => t.status = s.status) (by simp) (fun t ht => by simpa using ht))
    (fun t ht => by simpa using ht)
@[simp] theorem State.runRepairWith_rdata (s : State) (l : List SchedStep) : (s.runRepairWith l).state.rdata = s.rdata :=
  Run.andThen_keeps (R := fun t => t.rdata = s.rdata)
    (Run.andThen_keeps (R := fun t => t.rdata = s.rdata) (by simp) (fun t ht => by simpa using ht))
    (fun t ht => by simpa using ht)
@[simp] theorem State.runFlush_env (s : State) (m : DrawMode) : (s.runFlush m).state.env = s.env := by
  unfold State.runFlush
  split
  · exact State.runSched_env s _
  · rfl
@[simp] theorem State.runFlush_commands (s : State) (m : DrawMode) : (s.runFlush m).state.commands = s.commands := by
  unfold State.runFlush
  split
  · exact State.runSched_commands s _
  · rfl
@[simp] theorem State.runFlush_held (s : State) (m : DrawMode) : (s.runFlush m).state.held = s.held := by
  unfold State.runFlush
  split
  · exact State.runSched_held s _
  · rfl
@[simp] theorem State.runFlush_fb (s : State) (m : DrawMode) : (s.runFlush m).state.fb = s.fb := by
  unfold State.runFlush
  split
  · exact State.runSched_fb s _
  · rfl
@[simp] theorem State.runFlush_pwr (s : State) (m : DrawMode) : (s.runFlush m).state.pwr = s.pwr := by
  unfold State.runFlush
  split
  · exact State.runSched_pwr s _
  · rfl
@[simp] theorem State.runFlush_status (s : State) (m : DrawMode) : (s.runFlush m).state.status = s.status := by
  unfold State.runFlush
  split
  · exact State.runSched_status s _
  · rfl
@[simp] theorem State.runFlush_rdata (s : State) (m : DrawMode) : (s.runFlush m).state.rdata = s.rdata := by
  unfold State.runFlush
  split
  · exact State.runSched_rdata s _
  · rfl

theorem State.runRepairWith_grew (s : State) (l : List SchedStep) : s.Grew (s.runRepairWith l).state :=
  Run.andThen_keeps (R := s.Grew)
    (Run.andThen_keeps (R := s.Grew) s.runPowerOn_grew (fun t ht => ht.trans (t.runSched_grew l)))
    (fun t ht => ht.trans t.runPowerOff_grew)

theorem State.runFlush_grew (s : State) (m : DrawMode) : s.Grew (s.runFlush m).state := by
  unfold State.runFlush
  split
  · exact s.runSched_grew _
  · exact .refl s

/-! ### How a command of hardware steps ends -/

/-- A finished run: the response is written and nothing else, or the command agent is held. -/
theorem Run.finish_cases (r : Run) :
    (r.ending = .done ∧ r.finish = r.state.respond .ok 0#56) ∨
      (∃ k, r.ending = .raised k ∧ r.finish = r.state.raise k) ∨
      (r.ending = .held ∧ r.finish = { r.state with held := true }) := by
  obtain ⟨s, e⟩ := r
  cases e with
  | done => exact .inl ⟨rfl, rfl⟩
  | raised k => exact .inr (.inl ⟨k, rfl, rfl⟩)
  | held => exact .inr (.inr ⟨rfl, rfl⟩)

theorem Run.finish_grew {s : State} {r : Run} (h : s.Grew r.state) : s.Grew r.finish := by
  rcases r.finish_cases with ⟨-, e⟩ | ⟨k, -, e⟩ | ⟨-, e⟩ <;> rw [e] <;> exact h.trans (.of_same rfl rfl)

/-- A reading that the response and the hold do not change is that of the run's last state. -/
theorem Run.finish_keeps {α : Type} {f : State → α} (hr : ∀ s st d, f (State.respond s st d) = f s)
    (hh : ∀ s b, f { s with held := b } = f s) (r : Run) : f r.finish = f r.state := by
  rcases r.finish_cases with ⟨-, e⟩ | ⟨k, -, e⟩ | ⟨-, e⟩ <;> rw [e]
  · exact hr _ _ _
  · exact hr _ _ _
  · exact hh _ _

end Sys2Proof.Machine
end

