-- ==== Sys2Proof/Laws/Memory.lean ====
section
/-! SUPPORT. The laws of the framebuffer's cells: a read after a write, and that every memory operation keeps the canonical
form and the address range (20_memory.md R40, R44, R50). -/

namespace Sys2Proof.Machine

theorem Memory.read_filter_ne (m : Memory) (a b : Nat) (h : b ≠ a) :
    Memory.read (m.filter (fun c => c.1 != a)) b = m.read b := by
  induction m with
  | nil => rfl
  | cons c rest ih =>
    obtain ⟨k, v⟩ := c
    by_cases hk : k = a
    · have hkb : k ≠ b := fun e => h (e.symm.trans hk)
      simpa [List.filter_cons, hk, Memory.read, hkb, Ne.symm h] using ih
    · have : (k != a) = true := by simpa using hk
      simp only [List.filter_cons, this, if_true, Memory.read, ih]

theorem Memory.read_filter_self (m : Memory) (a : Nat) :
    Memory.read (m.filter (fun c => c.1 != a)) a = Memory.unlisted := by
  induction m with
  | nil => rfl
  | cons c rest ih =>
    obtain ⟨k, v⟩ := c
    by_cases hk : k = a
    · simp only [List.filter_cons, hk, bne_self_eq_false]; simpa using ih
    · have : (k != a) = true := by simpa using hk
      simp only [List.filter_cons, this, if_true, Memory.read, if_neg hk, ih]

theorem Memory.read_insert_self (m : Memory) (a : Nat) (v : Byte) (h : ∀ c ∈ m, c.1 ≠ a) :
    Memory.read (m.insert a v) a = v := by
  induction m with
  | nil => simp [Memory.insert, Memory.read]
  | cons c rest ih =>
    obtain ⟨k, w⟩ := c
    have hk : k ≠ a := h (k, w) (by simp)
    unfold Memory.insert
    split
    · simp [Memory.read]
    · simp only [Memory.read, if_neg hk]
      exact ih (fun c hc => h c (by simp [hc]))

theorem Memory.read_insert_other (m : Memory) (a b : Nat) (v : Byte) (h : b ≠ a) :
    Memory.read (m.insert a v) b = m.read b := by
  induction m with
  | nil => simp [Memory.insert, Memory.read, Ne.symm h]
  | cons c rest ih =>
    obtain ⟨k, w⟩ := c
    unfold Memory.insert
    split
    · simp [Memory.read, Ne.symm h]
    · simp only [Memory.read, ih]

/-- A read after a write to the same address gives the value written. -/
theorem Memory.read_write_self (m : Memory) (a : Nat) (v : Byte) : Memory.read (m.write a v) a = v := by
  unfold Memory.write
  split
  · rename_i hv; rw [Memory.read_filter_self, hv]
  · exact Memory.read_insert_self _ _ _ (fun c hc => by simpa using (List.mem_filter.1 hc).2)

/-- A write leaves every other address alone. -/
theorem Memory.read_write_other (m : Memory) (a b : Nat) (v : Byte) (h : b ≠ a) :
    Memory.read (m.write a v) b = m.read b := by
  unfold Memory.write
  split
  · exact Memory.read_filter_ne m a b h
  · rw [Memory.read_insert_other _ _ _ _ h, Memory.read_filter_ne m a b h]

theorem Memory.mem_insert {m : Memory} {a : Nat} {v : Byte} {c : Host.Cell} (h : c ∈ m.insert a v) :
    c = (a, v) ∨ c ∈ m := by
  induction m with
  | nil => simpa [Memory.insert] using h
  | cons d rest ih =>
    obtain ⟨k, w⟩ := d
    unfold Memory.insert at h
    split at h
    · simpa using h
    · rcases List.mem_cons.1 h with h | h
      · simp [h]
      · rcases ih h with h | h <;> simp [h]

theorem Memory.pairwise_insert {m : Memory} {a : Nat} {v : Byte} (hm : m.Pairwise (fun c d => c.1 < d.1))
    (ha : ∀ c ∈ m, c.1 ≠ a) : (m.insert a v).Pairwise (fun c d => c.1 < d.1) := by
  induction m with
  | nil => simp [Memory.insert]
  | cons d rest ih =>
    obtain ⟨k, w⟩ := d
    have hrest := List.pairwise_cons.1 hm
    have hk : k ≠ a := ha (k, w) (by simp)
    unfold Memory.insert
    split
    · rename_i hlt
      refine List.pairwise_cons.2 ⟨fun c hc => ?_, hm⟩
      rcases List.mem_cons.1 hc with h | h
      · subst h; exact hlt
      · exact Nat.lt_trans hlt (hrest.1 c h)
    · refine List.pairwise_cons.2 ⟨fun c hc => ?_, ih hrest.2 (fun c hc => ha c (by simp [hc]))⟩
      rcases Memory.mem_insert hc with h | h
      · subst h; show k < a; omega
      · exact hrest.1 c h

/-- A write keeps the canonical form. -/
theorem Memory.wf_write {m : Memory} (h : m.wf) (a : Nat) (v : Byte) : (m.write a v).wf := by
  have hf : Memory.wf (m.filter (fun c => c.1 != a)) :=
    ⟨h.1.filter _, fun c hc => h.2 c (List.mem_filter.1 hc).1⟩
  unfold Memory.write
  split
  · exact hf
  · rename_i hv
    refine ⟨Memory.pairwise_insert hf.1 (fun c hc => by simpa using (List.mem_filter.1 hc).2), fun c hc => ?_⟩
    rcases Memory.mem_insert hc with h' | h'
    · subst h'; exact hv
    · exact hf.2 c h'

/-- A write at address `a` lists no address outside those listed before and `a`. -/
theorem Memory.mem_write {m : Memory} {a : Nat} {v : Byte} {c : Host.Cell} (h : c ∈ m.write a v) :
    c.1 = a ∨ c ∈ m := by
  unfold Memory.write at h
  split at h
  · exact .inr (List.mem_filter.1 h).1
  · rcases Memory.mem_insert h with h | h
    · exact .inl (by rw [h])
    · exact .inr (List.mem_filter.1 h).1

/-- The reset framebuffer is in canonical form. -/
theorem Memory.wf_reset : State.reset.fb.wf := ⟨List.Pairwise.nil, fun _ h => nomatch h⟩

theorem Memory.read_map_range (b : Byte) (n a : Nat) (f : Nat → Nat) (hf : Function.Injective f) :
    Memory.read ((List.range n).map (fun i => (f i, b))) (f a) = if a < n then b else Memory.unlisted := by
  induction n generalizing f a with
  | zero => rfl
  | succ n ih =>
    rw [List.range_succ_eq_map, List.map_cons, List.map_map]
    cases a with
    | zero => simp [Memory.read]
    | succ a =>
      have h0 : f 0 ≠ f (a + 1) := fun e => by simpa using hf e
      simp only [Memory.read, if_neg h0]
      have := ih a (fun i => f (i + 1)) (fun i j e => by simpa using hf e)
      simp only [Function.comp_def, Nat.succ_eq_add_one] at *
      rw [this]; simp

/-- After a fill every byte of the framebuffer reads as the byte filled with (40_framebuffer_ops.md R82, R83). -/
theorem State.byteAt_fillBytes (s : State) (b : Byte) (a : Nat) (h : a < s.fbBytes) : (s.fillBytes b).byteAt a = b := by
  unfold State.fillBytes State.byteAt
  split
  · rename_i hb; simp [Memory.read, hb]
  · have := Memory.read_map_range b s.fbBytes a id Function.injective_id
    simpa [h] using this

/-- A fill leaves the canonical form. -/
theorem State.wf_fillBytes (s : State) (b : Byte) : (s.fillBytes b).fb.wf := by
  unfold State.fillBytes
  split
  · exact Memory.wf_reset
  · rename_i hb
    refine ⟨?_, fun c hc => ?_⟩
    · rw [List.pairwise_map]; exact List.pairwise_lt_range
    · obtain ⟨i, -, rfl⟩ := List.mem_map.1 hc; exact hb

/-- A fill lists no address outside the framebuffer. -/
theorem State.fillBytes_in_range (s : State) (b : Byte) : ∀ c ∈ (s.fillBytes b).fb, c.1 < s.fbBytes := by
  unfold State.fillBytes
  intro c hc
  split at hc
  · cases hc
  · obtain ⟨i, hi, rfl⟩ := List.mem_map.1 hc; exact List.mem_range.1 hi

end Sys2Proof.Machine
end

