-- ==== Sys2Proof/Laws/Pixels.lean ====
section
/-! SUPPORT. The laws of pixels: every in-bounds pixel has its byte, a nibble write is exact and keeps its neighbours, and
what a list of nibble writes does (20_memory.md R41 to R44). -/

namespace Sys2Proof.Machine

/-- Every pixel index below `NPIX` has its byte: the pixel count is even (00_scope.md R3). -/
theorem State.half_lt_fbBytes (s : State) {idx : Nat} (h : idx < s.env.geom.npix) : idx / 2 < s.fbBytes := by
  have he := s.env.geom.even_pixels
  unfold State.fbBytes Geometry.fbBytes Geometry.npix at *
  omega

theorem State.index_lt_npix (s : State) {x y : Nat} (hx : x < s.width) (hy : y < s.height) :
    y * s.width + x < s.env.geom.npix := by
  have h : (y + 1) * s.width ≤ s.height * s.width := Nat.mul_le_mul_right _ hy
  have : s.env.geom.npix = s.height * s.width := by
    unfold Geometry.npix State.height State.width; exact Nat.mul_comm _ _
  rw [this]
  calc y * s.width + x < y * s.width + s.width := by omega
    _ = (y + 1) * s.width := by ring
    _ ≤ _ := h

theorem high_of_append (u l : Nibble) : (u ++ l : BitVec (4 + 4)).extractLsb' 4 4 = u := by
  apply BitVec.eq_of_getLsbD_eq; intro i hi
  rw [BitVec.getLsbD_extractLsb', BitVec.getLsbD_append]
  simp [hi]

theorem low_of_append (u l : Nibble) : (u ++ l : BitVec (4 + 4)).extractLsb' 0 4 = l := by
  apply BitVec.eq_of_getLsbD_eq; intro i hi
  rw [BitVec.getLsbD_extractLsb', BitVec.getLsbD_append]
  simp [hi]

@[simp] theorem nibbleOf_withNibble_self (idx : Nat) (b : Byte) (v : Nibble) :
    nibbleOf idx (withNibble idx b v) = v := by
  unfold nibbleOf withNibble
  split
  · exact high_of_append v _
  · exact low_of_append _ v

theorem nibbleOf_withNibble_other (i j : Nat) (b : Byte) (v : Nibble) (h : j / 2 = i / 2) (hne : j ≠ i) :
    nibbleOf j (withNibble i b v) = nibbleOf j b := by
  unfold nibbleOf withNibble
  rcases Nat.mod_two_eq_zero_or_one i with hi | hi
  · have hj : j % 2 ≠ 0 := by omega
    rw [if_pos hi, if_neg hj, if_neg hj]; exact low_of_append v _
  · have hj : j % 2 = 0 := by omega
    have hi0 : i % 2 ≠ 0 := by omega
    rw [if_neg hi0, if_pos hj, if_pos hj]; exact high_of_append _ v

/-- What `NibWrite` does where the byte exists: one byte changes (R44). -/
theorem State.nibWrite_ok (s : State) (idx : Nat) (v : Nibble) (h : idx / 2 < s.fbBytes) :
    s.nibWrite idx v = .ok { s with fb := s.fb.write (idx / 2) (withNibble idx (s.byteAt (idx / 2)) v) } := by
  simp [State.nibWrite, State.memRead, State.memWrite, h]

/-- What `NibRead` answers where the byte exists (R43). -/
theorem State.nibRead_ok (s : State) (idx : Nat) (h : idx / 2 < s.fbBytes) : s.nibRead idx = .ok (s.pixelAt idx) := by
  simp [State.nibRead, State.memRead, State.pixelAt, h]

/-- The state after one nibble has been written, wherever it is. -/
def State.withPixel (s : State) (idx : Nat) (v : Nibble) : State :=
  { s with fb := s.fb.write (idx / 2) (withNibble idx (s.byteAt (idx / 2)) v) }

theorem State.byteAt_withPixel_self (s : State) (idx : Nat) (v : Nibble) :
    (s.withPixel idx v).byteAt (idx / 2) = withNibble idx (s.byteAt (idx / 2)) v := Memory.read_write_self _ _ _

theorem State.byteAt_withPixel_other (s : State) (idx a : Nat) (v : Nibble) (h : a ≠ idx / 2) :
    (s.withPixel idx v).byteAt a = s.byteAt a := Memory.read_write_other _ _ _ _ h

/-- A nibble write is exact: its pixel takes the level, every other pixel keeps its own (R44). -/
theorem State.pixelAt_withPixel (s : State) (idx j : Nat) (v : Nibble) :
    (s.withPixel idx v).pixelAt j = if j = idx then v else s.pixelAt j := by
  unfold State.pixelAt
  by_cases hb : j / 2 = idx / 2
  · rw [hb, State.byteAt_withPixel_self]
    by_cases h : j = idx
    · simp [h]
    · rw [if_neg h, nibbleOf_withNibble_other idx j _ v hb h]
  · rw [State.byteAt_withPixel_other _ _ _ _ hb, if_neg (fun e => hb (by rw [e]))]

/-- What a list of nibble writes does where every byte exists: the writes go through, nothing but `FB` changes, the listed
pixels take the level and every other pixel keeps its own; the canonical form and the range are kept. -/
theorem State.nibWriteAll_ok (s : State) (l : List Nat) (v : Nibble) (h : ∀ i ∈ l, i / 2 < s.fbBytes) :
    ∃ m : Memory, s.nibWriteAll l v = .ok { s with fb := m } ∧
      (∀ j, ({ s with fb := m } : State).pixelAt j = if j ∈ l then v else s.pixelAt j) ∧
      (s.fb.wf → m.wf) ∧ ((∀ c ∈ s.fb, c.1 < s.fbBytes) → ∀ c ∈ m, c.1 < s.fbBytes) ∧
      (∀ a, (∀ i ∈ l, a ≠ i / 2) → m.read a = s.byteAt a) := by
  induction l generalizing s with
  | nil => exact ⟨s.fb, rfl, fun _ => by simp, id, id, fun _ _ => rfl⟩
  | cons i rest ih =>
    have hi := h i (by simp)
    have hs : s.nibWrite i v = .ok (s.withPixel i v) := s.nibWrite_ok i v hi
    obtain ⟨m, hm, hp, hw, hr, hb⟩ := ih (s.withPixel i v) (fun j hj => h j (by simp [hj]))
    refine ⟨m, ?_, ?_, fun hwf => hw (Memory.wf_write hwf _ _), ?_, ?_⟩
    · show s.nibWriteAll (i :: rest) v = _
      unfold State.nibWriteAll; rw [hs]; exact hm
    · intro j
      have := hp j
      rw [show ({ s with fb := m } : State).pixelAt j = ({ s.withPixel i v with fb := m } : State).pixelAt j from rfl,
        this, State.pixelAt_withPixel]
      by_cases hj : j ∈ rest <;> by_cases hji : j = i <;> simp [hj, hji]
    · intro hin
      refine hr (fun c hc => ?_)
      rcases Memory.mem_write hc with h' | h'
      · rw [h']; exact hi
      · exact hin c h'
    · intro a ha
      rw [hb a (fun j hj => ha j (by simp [hj]))]
      exact State.byteAt_withPixel_other s i a v (ha i (by simp))

end Sys2Proof.Machine
end

