-- ==== Sys2Proof/Laws/Operands.lean ====
section
/-! SUPPORT. What the operand forms say, in the numbers of the rules: the bounds checks, the level check, the pixels of a
rectangle, and what SET_PIXEL and DRAW_PIXEL do with an in-bounds coordinate. -/

namespace Sys2Proof.Machine

theorem State.inBounds_iff (s : State) (x y : Int) :
    s.inBounds x y = true ↔ 0 ≤ x ∧ x < s.width ∧ 0 ≤ y ∧ y < s.height := by
  unfold State.inBounds
  exact decide_eq_true_iff

theorem State.inBounds_unsigned (s : State) (x y : BitVec 12) :
    s.inBounds (unsignedCoord x) (unsignedCoord y) = true ↔ x.toNat < s.width ∧ y.toNat < s.height := by
  rw [State.inBounds_iff]
  simp [unsignedCoord]

theorem State.inBounds_signed (s : State) (x y : BitVec 12) :
    s.inBounds (signedCoord x) (signedCoord y) = true ↔
      0 ≤ x.toInt ∧ x.toInt < s.width ∧ 0 ≤ y.toInt ∧ y.toInt < s.height := s.inBounds_iff _ _

theorem State.rectInBounds_iff (s : State) (x y w h : BitVec 12) :
    s.rectInBounds x y w h = true ↔ x.toNat + w.toNat ≤ s.width ∧ y.toNat + h.toNat ≤ s.height := by
  unfold State.rectInBounds
  exact decide_eq_true_iff

theorem levelOk_iff (level : BitVec 8) : levelOk level = true ↔ level.toNat ≤ 15 := by simp [levelOk]

@[simp] theorem State.pixelIndex_unsigned (s : State) (x y : BitVec 12) :
    s.pixelIndex (unsignedCoord x) (unsignedCoord y) = y.toNat * s.width + x.toNat := rfl

/-- Every in-bounds coordinate has its byte (20_memory.md R42). -/
theorem State.half_pixelIndex_lt (s : State) {x y : Int} (h : s.inBounds x y = true) :
    s.pixelIndex x y / 2 < s.fbBytes := by
  rw [State.inBounds_iff] at h
  exact s.half_lt_fbBytes (s.index_lt_npix (by omega) (by omega))

/-- The pixels of a rectangle: columns `x .. x+w-1` of rows `y .. y+h-1` (40_framebuffer_ops.md R84). -/
theorem State.mem_rectPixels (s : State) (x y w h : BitVec 12) (j : Nat) :
    j ∈ s.rectPixels x y w h ↔
      ∃ xx yy, x.toNat ≤ xx ∧ xx < x.toNat + w.toNat ∧ y.toNat ≤ yy ∧ yy < y.toNat + h.toNat ∧
        j = yy * s.width + xx := by
  simp only [State.rectPixels, List.mem_flatMap, List.mem_range, List.mem_map]
  constructor
  · rintro ⟨b, hb, a, ha, rfl⟩
    exact ⟨x.toNat + a, y.toNat + b, by omega, by omega, by omega, by omega, rfl⟩
  · rintro ⟨xx, yy, h1, h2, h3, h4, rfl⟩
    refine ⟨yy - y.toNat, by omega, xx - x.toNat, by omega, ?_⟩
    rw [Nat.add_sub_cancel' h3, Nat.add_sub_cancel' h1]

/-- Every pixel of a rectangle inside the panel has its byte. -/
theorem State.half_rectPixel_lt (s : State) {x y w h : BitVec 12} (hr : s.rectInBounds x y w h = true) :
    ∀ i ∈ s.rectPixels x y w h, i / 2 < s.fbBytes := by
  intro i hi
  rw [State.rectInBounds_iff] at hr
  obtain ⟨xx, yy, h1, h2, h3, h4, rfl⟩ := (s.mem_rectPixels x y w h i).1 hi
  exact s.half_lt_fbBytes (s.index_lt_npix (by omega) (by omega))

/-- EVERYTHING `drawAt` can do with an in-bounds coordinate: one pixel written, or `InvalidColor` (R80, R85). -/
theorem State.drawAt_cases (s : State) {x y : Int} (level : BitVec 8) (h : s.inBounds x y = true) :
    (level.toNat ≤ 15 ∧
        s.drawAt x y level = .next ((s.withPixel (s.pixelIndex x y) (levelNibble level)).respond .ok 0#56)) ∨
      (15 < level.toNat ∧ s.drawAt x y level = .next (s.raise .invalidColor)) := by
  unfold State.drawAt
  by_cases hl : level.toNat ≤ 15
  · refine .inl ⟨hl, ?_⟩
    rw [if_pos ((levelOk_iff level).2 hl), State.nibWrite_ok _ _ _ (s.half_pixelIndex_lt h)]
    rfl
  · exact .inr ⟨by omega, if_neg (by rw [levelOk_iff]; exact hl)⟩

end Sys2Proof.Machine
end

