-- ==== Sys2Proof/Laws/PerInstr.lean ====
section
/-! SUPPORT. The family OpcodeField: the opcode byte of a command's word is the byte of its own row (30_encoding.md R67),
one lemma per constructor. -/

namespace Sys2Proof.Laws.OpcodeField

/-- Bits 63:56 of the word of `i` are the opcode of `i`. -/
def Statement (i : Instr) : Prop := Word.op (encode i) = i.opcode.byte

theorem of_toNat {w : Word} {o : Opcode} {n : Nat} (h : w.toNat = o.byte.toNat * 2 ^ 56 + n) (hn : n < 2 ^ 56) :
    Word.op w = o.byte := by
  apply BitVec.eq_of_toNat_eq
  have hb := o.byte.isLt
  rw [Word.op, field_toNat, h]
  omega

theorem of_encodeG (o : Opcode) (x y w h : BitVec 12) (level : BitVec 8) : Word.op (encodeG o x y w h level) = o.byte := by
  have := x.isLt; have := y.isLt; have := w.isLt; have := h.isLt; have := level.isLt
  refine of_toNat (n := (((x.toNat * 2 ^ 12 + y.toNat) * 2 ^ 12 + w.toNat) * 2 ^ 12 + h.toNat) * 2 ^ 8 + level.toNat) ?_ (by omega)
  rw [encodeG_toNat]
  omega

theorem of_encodeN (o : Opcode) : Word.op (encodeN o) = o.byte :=
  of_toNat (n := 0) (by rw [encodeN_toNat, Nat.add_zero]) (by decide)

theorem setPixel (x y : BitVec 12) (level : BitVec 8) : Statement (.setPixel x y level) := of_encodeG _ _ _ _ _ _
theorem getPixel (x y : BitVec 12) : Statement (.getPixel x y) := of_encodeG _ _ _ _ _ _
theorem fill (level : BitVec 8) : Statement (.fill level) := of_encodeG _ _ _ _ _ _
theorem clear : Statement .clear := of_encodeN _
theorem fillRect (x y w h : BitVec 12) (level : BitVec 8) : Statement (.fillRect x y w h level) := of_encodeG _ _ _ _ _ _
theorem drawPixel (x y : BitVec 12) (level : BitVec 8) : Statement (.drawPixel x y level) := of_encodeG _ _ _ _ _ _
theorem bbox : Statement .bbox := of_encodeN _
theorem enPwr : Statement .enPwr := of_encodeN _
theorem enVolt : Statement .enVolt := of_encodeN _
theorem enOut : Statement .enOut := of_encodeN _
theorem disOut : Statement .disOut := of_encodeN _
theorem disVolt : Statement .disVolt := of_encodeN _
theorem disPwr : Statement .disPwr := of_encodeN _
theorem pulse (high low : BitVec 16) (wait : Bool) : Statement (.pulse high low wait) := by
  have := high.isLt; have := low.isLt; have := wait.toNat_lt
  refine of_toNat (o := .pulse) (n := ((high.toNat * 2 ^ 16 + low.toNat) * 2 ^ 1 + wait.toNat) * 2 ^ 23) ?_ (by omega)
  show (encodeT .pulse high low wait).toNat = _
  rw [encodeT_toNat]
  omega
theorem powerOn : Statement .powerOn := of_encodeN _
theorem powerOff : Statement .powerOff := of_encodeN _
theorem flush (mode : DrawMode) : Statement (.flush mode) := by
  have := mode.bits.isLt
  refine of_toNat (o := .flush) (n := mode.bits.toNat) ?_ (by omega)
  show (encodeM .flush mode.bits).toNat = _
  rw [encodeM_toNat]
  omega
theorem repair : Statement .repair := of_encodeN _
theorem stat : Statement .stat := of_encodeN _

end Sys2Proof.Laws.OpcodeField
end

