-- ==== Sys2Proof/Laws/Sequences.lean ====
section
/-! SUPPORT. Everything a ShiftOut, a configuration command and a step of a power sequence can do, said once each: how many
of the events are done, and how the run ends (41_config_register_ops.md R100, R109, R111; 43_power_and_panel_ops.md R143). -/

namespace Sys2Proof.Machine

@[simp] theorem writeEvents_length (v : Byte) : (writeEvents v).length = 26 := rfl

/-- Before the last of the 26 events of a write the latches hold the old byte (R101, R111). -/
theorem Receiver.replay_take_q (r : Receiver) (v : Byte) (n : Nat) (h : n < 26) :
    (r.replay ((writeEvents v).take n)).q = r.q := by
  interval_cases n <;> rfl

/-- A ShiftOut does `k` of its operations; it completes with all 26, or sample `k` is 1 and it raises. -/
theorem State.shiftOut_spec (s : State) (v : Byte) :
    ∃ k, k ≤ 26 ∧ s.NoFaultFor k ∧
      (s.shiftOut v).state.receiver = s.receiver.replay ((writeEvents v).take k) ∧
      (s.shiftOut v).state.commandTrace = s.commandTrace ++ (writeEvents v).take k ∧
      ((k = 26 ∧ (s.shiftOut v).ending = .done ∧ (s.shiftOut v).state.faultIx = s.faultIx + 26) ∨
        (k < 26 ∧ s.faultAt (s.faultIx + k) = true ∧ (s.shiftOut v).ending = .raised .peripheralFailure ∧
          (s.shiftOut v).state.faultIx = s.faultIx + k + 1)) := by
  obtain ⟨k, h1, h2, h3, h4, h5⟩ := s.lineOps_spec (shiftOps v)
  simp only [List.map_take, shiftOps_events, shiftOps_length] at h1 h3 h4 h5
  refine ⟨k, h1, h2, h3, h4, ?_⟩
  rcases h5 with ⟨a, b, c⟩ | h
  · exact .inl ⟨a, b, a ▸ c⟩
  · exact .inr h

/-- What a step of a power sequence appends to the command agent's trace when it goes through. -/
def settledEvents (v : Byte) (ms : Nat) : List Event := writeEvents v ++ [.settle ms]

/-- A step of a power sequence stores its intent byte, does `n` of its 27 events and ends with all of them, or raises before
the last operation; nothing of `SR`, `Q` is its own but what those events do to the receiver. -/
theorem State.writeAndSettle_spec (s : State) (c : CfgCommand) (ms : Nat) :
    ∃ n, (s.writeAndSettle c ms).state.cfg = cfgByte c s.cfg ∧
      (s.writeAndSettle c ms).state.receiver = s.receiver.replay ((settledEvents (cfgByte c s.cfg) ms).take n) ∧
      (s.writeAndSettle c ms).state.commandTrace =
        s.commandTrace ++ (settledEvents (cfgByte c s.cfg) ms).take n ∧
      ((n = 27 ∧ (s.writeAndSettle c ms).ending = .done ∧ (s.writeAndSettle c ms).state.faultIx = s.faultIx + 26 ∧
          s.NoFaultFor 26) ∨
        (n < 26 ∧ (s.writeAndSettle c ms).ending = .raised .peripheralFailure ∧
          (s.writeAndSettle c ms).state.faultIx = s.faultIx + n + 1 ∧ s.faultAt (s.faultIx + n) = true)) := by
  obtain ⟨k, -, h2, h3, h4, h5⟩ := State.shiftOut_spec { s with cfg := cfgByte c s.cfg } (cfgByte c s.cfg)
  have hrun : s.runCfg c = ({ s with cfg := cfgByte c s.cfg } : State).shiftOut (cfgByte c s.cfg) := rfl
  have hcfg : (s.runCfg c).state.cfg = cfgByte c s.cfg := by simp
  have hrec : ({ s with cfg := cfgByte c s.cfg } : State).receiver = s.receiver := rfl
  have htr : ({ s with cfg := cfgByte c s.cfg } : State).commandTrace = s.commandTrace := rfl
  rw [← hrun] at h3 h4 h5
  rw [hrec] at h3
  rw [htr] at h4
  rcases h5 with ⟨hk, hd, hix⟩ | ⟨hk, hf, hd, hix⟩
  · subst hk
    have he : s.writeAndSettle c ms = ((s.runCfg c).state.settle ms).done := by
      unfold State.writeAndSettle Run.andThen; rw [hd]
    refine ⟨27, ?_, ?_, ?_, .inl ⟨rfl, by rw [he]; rfl, ?_, h2⟩⟩
    · rw [he]
      show ((s.runCfg c).state.settle ms).cfg = _
      simp
    · rw [he]
      show ((s.runCfg c).state.settle ms).receiver = _
      have : ((s.runCfg c).state.settle ms).receiver = (s.runCfg c).state.receiver := (s.runCfg c).state.yield_receiver
      rw [this, h3]
      rfl
    · rw [he]
      show ((s.runCfg c).state.settle ms).commandTrace = _
      rw [State.settle_commandTrace, h4, List.append_assoc]
      rfl
    · rw [he]
      show ((s.runCfg c).state.settle ms).faultIx = _
      rw [← hix]
      simp
  · have he : s.writeAndSettle c ms = s.runCfg c := by
      unfold State.writeAndSettle Run.andThen; rw [hd]
    have ht : (settledEvents (cfgByte c s.cfg) ms).take k = (writeEvents (cfgByte c s.cfg)).take k := by
      unfold settledEvents
      rw [List.take_append_of_le_length]
      rw [writeEvents_length]; omega
    rw [he]
    exact ⟨k, hcfg, by rw [ht, h3], by rw [ht, h4], .inr ⟨hk, hd, hix, hf⟩⟩

/-! ### The power sequences (43_power_and_panel_ops.md R140, R141, R143) -/

theorem settledEvents_length (v : Byte) (ms : Nat) : (settledEvents v ms).length = 27 := rfl

theorem settledEvents_take (v : Byte) (ms : Nat) : (settledEvents v ms).take 27 = settledEvents v ms := rfl

/-- The common shape of the two power sequences: three writes, each with its settle, then the mark. -/
def threeWrites (s : State) (c1 c2 c3 : CfgCommand) (m1 m2 m3 : Nat) (p : PowerState) : Run :=
  ((s.writeAndSettle c1 m1).andThen (fun t => t.writeAndSettle c2 m2)).andThen (fun t =>
      (t.writeAndSettle c3 m3).andThen (fun u => ({ u with pwr := p } : State).done))

/-- POWER_ON, where it is not a no-op (43_power_and_panel_ops.md R140). -/
theorem State.runPowerOn_eq (s : State) (h : s.pwr ≠ .on) : s.runPowerOn = threeWrites { s with pwr := .pending } .enPwr .enVolt .enOut 10 20 5 .on := by
  unfold State.runPowerOn; split
  · contradiction
  · rfl

/-- POWER_OFF, where it is not a no-op (R141). -/
theorem State.runPowerOff_eq (s : State) (h : s.pwr ≠ .off) : s.runPowerOff = threeWrites { s with pwr := .pending } .disOut .disVolt .disPwr 5 20 10 .off := by
  unfold State.runPowerOff; split
  · contradiction
  · rfl

/-- The events of the up sequence are those of its three steps. -/
theorem upEvents_eq (v : Byte) : upEvents v = settledEvents (cfgByte .enPwr v) 10 ++ settledEvents (cfgByte .enVolt (cfgByte .enPwr v)) 20 ++ settledEvents (cfgByte .enOut (cfgByte .enVolt (cfgByte .enPwr v))) 5 := by
  have h1 : cfgByte .enPwr v = v ||| 0x04#8 := rfl
  have h2 : cfgByte .enVolt (v ||| 0x04#8) = v ||| 0x1C#8 := by show (v ||| 0x04#8) ||| 0x18#8 = _; rw [BitVec.or_assoc]; rfl
  have h3 : cfgByte .enOut (v ||| 0x1C#8) = v ||| 0x1D#8 := by show (v ||| 0x1C#8) ||| 0x01#8 = _; rw [BitVec.or_assoc]; rfl
  rw [h1, h2, h3]; simp [upEvents, settledEvents]

/-- The events of the down sequence are those of its three steps. -/
theorem downEvents_eq (v : Byte) : downEvents v = settledEvents (cfgByte .disOut v) 5 ++ settledEvents (cfgByte .disVolt (cfgByte .disOut v)) 20 ++ settledEvents (cfgByte .disPwr (cfgByte .disVolt (cfgByte .disOut v))) 10 := by
  have h1 : cfgByte .disOut v = v &&& 0xFE#8 := rfl
  have h2 : cfgByte .disVolt (v &&& 0xFE#8) = v &&& 0xE6#8 := by show (v &&& 0xFE#8) &&& 0xE7#8 = _; rw [BitVec.and_assoc]; rfl
  have h3 : cfgByte .disPwr (v &&& 0xE6#8) = v &&& 0xE2#8 := by show (v &&& 0xE6#8) &&& 0xFB#8 = _; rw [BitVec.and_assoc]; rfl
  rw [h1, h2, h3]; simp [downEvents, settledEvents]

/-- EVERYTHING a power sequence can do: it does `n` of its 81 events; either all of them, and `PWR` is marked, or it raises,
`PWR` stays as it was and `CFG` is the intent of one of the three writes. -/
theorem threeWrites_spec (s : State) (c1 c2 c3 : CfgCommand) (m1 m2 m3 : Nat) (p : PowerState) :
  let v1 := cfgByte c1 s.cfg; let v2 := cfgByte c2 v1; let v3 := cfgByte c3 v2
  let E := settledEvents v1 m1 ++ settledEvents v2 m2 ++ settledEvents v3 m3
  let r := threeWrites s c1 c2 c3 m1 m2 m3 p
  ∃ n, r.state.commandTrace = s.commandTrace ++ E.take n ∧ r.state.receiver = s.receiver.replay (E.take n) ∧
   ((n = 81 ∧ r.ending = .done ∧ r.state.pwr = p ∧ r.state.cfg = v3 ∧ r.state.faultIx = s.faultIx + 78) ∨
    (n < 81 ∧ r.ending = .raised .peripheralFailure ∧ r.state.pwr = s.pwr ∧ r.state.cfg ∈ [v1, v2, v3] ∧ s.faultIx < r.state.faultIx ∧ ¬ s.NoFaultFor 78)) := by
  intro v1 v2 v3 E r
  obtain ⟨n1, a1, a2, a3, a4⟩ := s.writeAndSettle_spec c1 m1
  obtain ⟨n2, b1, b2, b3, b4⟩ := (s.writeAndSettle c1 m1).state.writeAndSettle_spec c2 m2
  obtain ⟨n3, d1, d2, d3, d4⟩ := ((s.writeAndSettle c1 m1).state.writeAndSettle c2 m2).state.writeAndSettle_spec c3 m3
  rw [a1] at b1 b2 b3 
  rw [b1] at d1 d2 d3
  have henv : ∀ n, (s.writeAndSettle c1 m1).state.faultAt n = s.faultAt n := by simp [State.faultAt]
  have henv2 : ∀ n, ((s.writeAndSettle c1 m1).state.writeAndSettle c2 m2).state.faultAt n = s.faultAt n := by simp [State.faultAt]
  rw [henv] at b4
  rw [henv2] at d4
  have hE1 : ∀ k, k ≤ 27 → E.take k = (settledEvents v1 m1).take k := by
    intro k hk
    show (settledEvents v1 m1 ++ settledEvents v2 m2 ++ settledEvents v3 m3).take _ = _
    rw [List.append_assoc, List.take_append_of_le_length (by rw [settledEvents_length]; exact hk)]
  have hE2 : ∀ k, k ≤ 27 → E.take (27 + k) = settledEvents v1 m1 ++ (settledEvents v2 m2).take k := by
    intro k hk
    show (settledEvents v1 m1 ++ settledEvents v2 m2 ++ settledEvents v3 m3).take _ = _
    rw [List.append_assoc, List.take_append, settledEvents_length, List.take_of_length_le (by rw [settledEvents_length]; omega), Nat.add_sub_cancel_left, List.take_append_of_le_length (by rw [settledEvents_length]; exact hk)]
  have hE3 : ∀ k, k ≤ 27 → E.take (54 + k) = settledEvents v1 m1 ++ settledEvents v2 m2 ++ (settledEvents v3 m3).take k := by
    intro k hk
    have : (settledEvents v1 m1 ++ settledEvents v2 m2).length = 54 := rfl
    rw [List.take_append, this, List.take_of_length_le (by rw [this]; omega), Nat.add_sub_cancel_left]
  rcases a4 with ⟨e1, e2, e3, e4⟩ | ⟨e1, e2, e3, e4⟩
  · subst e1
    rw [settledEvents_take] at a2 a3
    rw [e3] at b4
    rcases b4 with ⟨f1, f2, f3, f4⟩ | ⟨f1, f2, f3, f4⟩
    · subst f1
      rw [settledEvents_take] at b2 b3
      rw [f3] at d4
      have hr0 : r = (((s.writeAndSettle c1 m1).state.writeAndSettle c2 m2).state.writeAndSettle c3 m3).andThen (fun u => ({ u with pwr := p } : State).done) := by
        show threeWrites s c1 c2 c3 m1 m2 m3 p = _
        unfold threeWrites Run.andThen; simp only [e2, f2]
      rcases d4 with ⟨g1, g2, g3, g4⟩ | ⟨g1, g2, g3, g4⟩
      · subst g1
        rw [settledEvents_take] at d2 d3
        have hr : r = ({ (((s.writeAndSettle c1 m1).state.writeAndSettle c2 m2).state.writeAndSettle c3 m3).state with pwr := p } : State).done := by
          rw [hr0]; unfold Run.andThen; simp only [g2]
        have h81 := hE3 27 (by omega)
        rw [settledEvents_take] at h81
        refine ⟨81, ?_, ?_, .inl ⟨rfl, by rw [hr]; rfl, by rw [hr]; rfl, ?_, ?_⟩⟩
        · rw [h81, hr]; refine Eq.trans d3 ?_; rw [b3, a3]; simp [v1, v2, v3]
        · rw [h81, hr]; refine Eq.trans d2 ?_; rw [b2, a2]; simp [v1, v2, v3]
        · rw [hr]; exact d1
        · rw [hr]; refine Eq.trans g3 ?_; omega
      · have hr : r = (((s.writeAndSettle c1 m1).state.writeAndSettle c2 m2).state.writeAndSettle c3 m3) := by
          rw [hr0]; unfold Run.andThen; simp only [g2]
        refine ⟨54 + n3, ?_, ?_, .inr ⟨by omega, by rw [hr]; exact g2, ?_, ?_, ?_, ?_⟩⟩
        · rw [hE3 n3 (by omega), hr, d3, b3, a3]; simp [v1, v2, v3]
        · rw [hE3 n3 (by omega), hr, d2, b2, a2]; simp [v1, v2, v3]
        · rw [hr]; simp
        · rw [hr, d1]; simp [v1, v2, v3]
        · rw [hr, g3]; omega
        · intro h
          have := h (52 + n3) (by omega)
          rw [show s.faultIx + (52 + n3) = s.faultIx + 26 + 26 + n3 by omega, g4] at this
          cases this
    · have hr : r = ((s.writeAndSettle c1 m1).state.writeAndSettle c2 m2) := by
        show threeWrites s c1 c2 c3 m1 m2 m3 p = _
        unfold threeWrites Run.andThen; simp only [e2, f2]
      refine ⟨27 + n2, ?_, ?_, .inr ⟨by omega, by rw [hr]; exact f2, ?_, ?_, ?_, ?_⟩⟩
      · rw [hE2 n2 (by omega), hr, b3, a3]; simp [v1, v2]
      · rw [hE2 n2 (by omega), hr, b2, a2]; simp [v1, v2]
      · rw [hr]; simp
      · rw [hr, b1]; simp [v1, v2, v3]
      · rw [hr, f3]; omega
      · intro h
        have := h (26 + n2) (by omega)
        rw [show s.faultIx + (26 + n2) = s.faultIx + 26 + n2 by omega, f4] at this
        cases this
  · have hr : r = (s.writeAndSettle c1 m1) := by
      show threeWrites s c1 c2 c3 m1 m2 m3 p = _
      unfold threeWrites Run.andThen; simp only [e2]
    refine ⟨n1, ?_, ?_, .inr ⟨by omega, by rw [hr]; exact e2, ?_, ?_, ?_, ?_⟩⟩
    · rw [hE1 n1 (by omega), hr, a3]
    · rw [hE1 n1 (by omega), hr, a2]
    · rw [hr]; simp
    · rw [hr, a1]; simp [v1, v2, v3]
    · rw [hr, e3]; omega
    · intro h
      have := h n1 (by omega)
      rw [e4] at this
      cases this

end Sys2Proof.Machine
end

