-- ==== Sys2Proof/Laws/Transmitter.lean ====
section
/-! SUPPORT. What the hardware commands other than PULSE do to `TX` and `PLS`: nothing but some number of the transmitter's
own steps (41_config_register_ops.md R108; 42_pulse_ops.md R129; 70_reset_and_hazards.md R187). -/

namespace Sys2Proof.Machine

/-- From `s` to `t` the transmission and its line have moved by transmitter steps only. -/
def State.TxMoved (s t : State) : Prop := ∃ n, t.tx = (State.txSteps n s).tx ∧ t.pls = (State.txSteps n s).pls

theorem State.txSteps_congr {s t : State} (h : t.tx = s.tx) (h' : t.pls = s.pls) (n : Nat) :
    (State.txSteps n t).tx = (State.txSteps n s).tx ∧ (State.txSteps n t).pls = (State.txSteps n s).pls := by
  induction n generalizing s t with
  | zero => exact ⟨h, h'⟩
  | succ n ih => apply ih <;> (unfold State.txStep; rw [h]; split <;> simp [h', h])

theorem State.txSteps_add (s : State) (m n : Nat) :
    State.txSteps n (State.txSteps m s) = State.txSteps (m + n) s := by
  induction m generalizing s with
  | zero => rw [Nat.zero_add]; rfl
  | succ m ih => rw [Nat.succ_add]; exact ih s.txStep

theorem State.TxMoved.of_same {s t : State} (h : t.tx = s.tx) (h' : t.pls = s.pls) : s.TxMoved t := ⟨0, h, h'⟩

theorem State.TxMoved.trans {s t u : State} (h : s.TxMoved t) (h' : t.TxMoved u) : s.TxMoved u := by
  obtain ⟨n, a, b⟩ := h
  obtain ⟨m, c, d⟩ := h'
  have e := State.txSteps_congr a b m
  rw [State.txSteps_add] at e
  exact ⟨n + m, c.trans e.1, d.trans e.2⟩

theorem State.yield_txMoved (s : State) : s.TxMoved s.yield := by
  obtain ⟨n, k, e⟩ := s.yield_spec
  rw [e]
  exact ⟨n, State.txSteps_congr (s := s) (t := { s with txIx := k }) rfl rfl n⟩

theorem State.lineOps_txMoved (s : State) (ops : List (Line × Bool)) : s.TxMoved (s.lineOps ops).state := by
  induction ops generalizing s with
  | nil => exact .of_same rfl rfl
  | cons o rest ih =>
    refine Run.andThen_keeps (R := s.TxMoved) (s.yield_txMoved.trans ?_) (fun t ht => ht.trans (ih t))
    exact State.unlessFault_keeps (R := s.yield.TxMoved) (.of_same rfl rfl)
      (fun h => h.trans (.of_same (by simp [State.done]) (by simp [State.done])))

theorem State.runCfg_txMoved (s : State) (c : CfgCommand) : s.TxMoved (s.runCfg c).state :=
  (State.TxMoved.of_same (s := s) (t := { s with cfg := cfgByte c s.cfg }) rfl rfl).trans
    (State.lineOps_txMoved _ (shiftOps (cfgByte c s.cfg)))

theorem State.writeAndSettle_txMoved (s : State) (c : CfgCommand) (ms : Nat) : s.TxMoved (s.writeAndSettle c ms).state :=
  Run.andThen_keeps (R := s.TxMoved) (s.runCfg_txMoved c)
    (fun t ht => ht.trans (t.yield_txMoved.trans (.of_same rfl rfl)))

theorem State.runPowerOn_txMoved (s : State) : s.TxMoved s.runPowerOn.state := by
  unfold State.runPowerOn
  split
  · exact .of_same rfl rfl
  · exact Run.andThen_keeps (R := s.TxMoved)
      (Run.andThen_keeps (R := s.TxMoved) ((State.TxMoved.of_same (s := s) (t := { s with pwr := .pending }) rfl rfl).trans
        (State.writeAndSettle_txMoved _ _ _))
        (fun t ht => ht.trans (t.writeAndSettle_txMoved _ _)))
      (fun t ht => Run.andThen_keeps (R := s.TxMoved) (ht.trans (t.writeAndSettle_txMoved _ _))
        (fun _ hu => hu.trans (.of_same rfl rfl)))

theorem State.runPowerOff_txMoved (s : State) : s.TxMoved s.runPowerOff.state := by
  unfold State.runPowerOff
  split
  · exact .of_same rfl rfl
  · exact Run.andThen_keeps (R := s.TxMoved)
      (Run.andThen_keeps (R := s.TxMoved) ((State.TxMoved.of_same (s := s) (t := { s with pwr := .pending }) rfl rfl).trans
        (State.writeAndSettle_txMoved _ _ _))
        (fun t ht => ht.trans (t.writeAndSettle_txMoved _ _)))
      (fun t ht => Run.andThen_keeps (R := s.TxMoved) (ht.trans (t.writeAndSettle_txMoved _ _))
        (fun _ hu => hu.trans (.of_same rfl rfl)))

theorem Run.finish_txMoved {s : State} {r : Run} (h : s.TxMoved r.state) : s.TxMoved r.finish := by
  rcases r.finish_cases with ⟨-, e⟩ | ⟨k, -, e⟩ | ⟨-, e⟩ <;> rw [e] <;> exact h.trans (.of_same rfl rfl)

end Sys2Proof.Machine
end

