-- ==== Sys2Proof/Machine/Asm.lean ====
section
/-! DEFINITION. The textual form of a command: its mnemonic and its operands as numbers separated by commas
(30_encoding.md R72), printed and read. No rule of the block depends on it. -/

namespace Sys2Proof.Machine

/-- The mnemonic of a command, as spec/opcode_table.json spells it. -/
def mnemonicOf : Opcode → String
  | .setPixel => "SET_PIXEL"
  | .getPixel => "GET_PIXEL"
  | .fill => "FILL"
  | .clear => "CLEAR"
  | .fillRect => "FILL_RECT"
  | .drawPixel => "DRAW_PIXEL"
  | .bbox => "BBOX"
  | .enPwr => "EN_PWR"
  | .enVolt => "EN_VOLT"
  | .enOut => "EN_OUT"
  | .disOut => "DIS_OUT"
  | .disVolt => "DIS_VOLT"
  | .disPwr => "DIS_PWR"
  | .pulse => "PULSE"
  | .powerOn => "POWER_ON"
  | .powerOff => "POWER_OFF"
  | .flush => "FLUSH"
  | .repair => "REPAIR"
  | .stat => "STAT"

/-- The operands of a command as integers, in the order of the source's call (R72). -/
def operandsOf : Instr → List Int
  | .setPixel x y level => [x.toNat, y.toNat, level.toNat]
  | .getPixel x y => [x.toNat, y.toNat]
  | .fill level => [level.toNat]
  | .clear => []
  | .fillRect x y w h level => [x.toNat, y.toNat, w.toNat, h.toNat, level.toNat]
  | .drawPixel x y level => [x.toInt, y.toInt, level.toNat]
  | .bbox => []
  | .enPwr => []
  | .enVolt => []
  | .enOut => []
  | .disOut => []
  | .disVolt => []
  | .disPwr => []
  | .pulse high low wait => [high.toNat, low.toNat, if wait then 1 else 0]
  | .powerOn => []
  | .powerOff => []
  | .flush mode => [mode.bits.toNat]
  | .repair => []
  | .stat => []

/-- The textual form of a command, operands in decimal (R72). -/
def textOf (i : Instr) : String :=
  match operandsOf i with
  | [] => mnemonicOf i.opcode
  | ops => mnemonicOf i.opcode ++ " " ++ String.intercalate ", " (ops.map (fun n => toString n))

/-- The value of one digit of a number in base 10 or 16. -/
def digitOf (base : Nat) (c : Char) : Option Nat :=
  let v :=
    if c.isDigit then some (c.toNat - '0'.toNat)
    else if 'a' ≤ c ∧ c ≤ 'f' then some (c.toNat - 'a'.toNat + 10)
    else if 'A' ≤ c ∧ c ≤ 'F' then some (c.toNat - 'A'.toNat + 10)
    else none
  v.filter (fun d => d < base)

/-- The number whose digits follow `acc`. -/
def digitsFrom (base : Nat) : List Char → Nat → Option Nat
  | [], acc => some acc
  | c :: rest, acc =>
    match digitOf base c with
    | some d => digitsFrom base rest (acc * base + d)
    | none => none

/-- A decimal or `0x` number (R72). -/
def natOfText : List Char → Option Nat
  | [] => none
  | ['0', 'x'] => none
  | '0' :: 'x' :: ds => digitsFrom 16 ds 0
  | ds => digitsFrom 10 ds 0

/-- A number with an optional minus sign (DRAW_PIXEL's coordinates, R72). -/
def intOfText : List Char → Option Int
  | '-' :: ds => (natOfText ds).map (fun n => -(Int.ofNat n))
  | ds => (natOfText ds).map Int.ofNat

/-- The value of a draw mode's name (R72). -/
def modeOfText (t : List Char) : Option Int :=
  if t = "BlackOnWhite".toList then some 0
  else if t = "WhiteOnBlack".toList then some 1
  else if t = "WhiteOnWhite".toList then some 2
  else none

/-- An operand: a number, or, for FLUSH, a draw mode's name as well (R72). -/
def operandOfText (o : Opcode) (t : List Char) : Option Int :=
  match (if o = .flush then modeOfText t else none) with
  | some m => some m
  | none => intOfText t

/-- The pieces of a text between separators. -/
def piecesOf (sep : Char) : List Char → List (List Char)
  | [] => [[]]
  | c :: rest =>
    if c = sep then [] :: piecesOf sep rest
    else
      match piecesOf sep rest with
      | p :: ps => (c :: p) :: ps
      | [] => [[c]]

/-- A text without its leading and trailing blanks. DESIGN CHOICE (notes/assumptions/17.md): R72 says nothing of blanks; those
around an operand are ignored, and a blank inside one stays, so that the text is no number and no mode's name. -/
def withoutBlanks (t : List Char) : List Char :=
  ((t.dropWhile (fun c => c == ' ')).reverse.dropWhile (fun c => c == ' ')).reverse

/-- An unsigned field of `n` bits. -/
def fieldOf (n : Nat) (v : Int) : Option (BitVec n) :=
  if 0 ≤ v ∧ v < 2 ^ n then some (BitVec.ofInt n v) else none

/-- A signed field of 12 bits (30_encoding.md R64). -/
def signedFieldOf (v : Int) : Option (BitVec 12) :=
  if -2048 ≤ v ∧ v ≤ 2047 then some (BitVec.ofInt 12 v) else none

/-- The command of a mnemonic and its operands, every operand within its field (30_encoding.md R62 to R65). -/
def instrOf : Opcode → List Int → Option Instr
  | .setPixel, [x, y, l] => do some (.setPixel (← fieldOf 12 x) (← fieldOf 12 y) (← fieldOf 8 l))
  | .getPixel, [x, y] => do some (.getPixel (← fieldOf 12 x) (← fieldOf 12 y))
  | .fill, [l] => do some (.fill (← fieldOf 8 l))
  | .clear, [] => some .clear
  | .fillRect, [x, y, w, h, l] => do
    some (.fillRect (← fieldOf 12 x) (← fieldOf 12 y) (← fieldOf 12 w) (← fieldOf 12 h) (← fieldOf 8 l))
  | .drawPixel, [x, y, l] => do some (.drawPixel (← signedFieldOf x) (← signedFieldOf y) (← fieldOf 8 l))
  | .bbox, [] => some .bbox
  | .enPwr, [] => some .enPwr
  | .enVolt, [] => some .enVolt
  | .enOut, [] => some .enOut
  | .disOut, [] => some .disOut
  | .disVolt, [] => some .disVolt
  | .disPwr, [] => some .disPwr
  | .pulse, [h, l, w] => do some (.pulse (← fieldOf 16 h) (← fieldOf 16 l) ((← fieldOf 1 w).getLsbD 0))
  | .powerOn, [] => some .powerOn
  | .powerOff, [] => some .powerOff
  | .flush, [m] => do some (.flush (← drawModeOfBits (← fieldOf 2 m)))
  | .repair, [] => some .repair
  | .stat, [] => some .stat
  | _, _ => none

/-- The operands of a line as integers; none where the line has only its mnemonic (R72). -/
def operandsOfText (o : Opcode) (t : List Char) : Option (List Int) :=
  if withoutBlanks t = [] then some [] else ((piecesOf ',' t).map withoutBlanks).mapM (operandOfText o)

/-- The command a line of text stands for (R72); a PULSE with both durations 0 stands for none (R70). -/
def assemble (line : String) : Option Instr :=
  let t := line.toList.dropWhile (fun c => c == ' ')
  let name := t.takeWhile (fun c => c != ' ')
  match allOpcodes.find? (fun o => (mnemonicOf o).toList == name) with
  | some o => ((operandsOfText o (t.drop name.length)).bind (instrOf o)).filter Instr.wf
  | none => none

end Sys2Proof.Machine
end

