-- ==== Sys2Proof/Tests/Slice0.lean ====
section
/-! SUPPORT. The model's own tests: words and responses from spec/95_test_vectors.md or worked out by hand from the rules, and
for every statement with hypotheses a concrete state and operands that meet them. -/

namespace Sys2Proof.Tests

open Sys2Proof.Machine

/-- The reset state under the convention of 95_test_vectors.md (`NO_FAULTS`), with fairness, and with fixed bytes in the
receiver where reset has free ones. -/
def bench : State :=
  { State.reset with env := { Env.reset with noFaults := true, fairTx := true }, sr := 0xA5#8, q := 0x5A#8 }

/-- `bench` with faults possible and the given samples settled, all later ones of `n` being 0. -/
def benchFaults (ones : List Nat) (n : Nat) : State :=
  { bench with
    env := { bench.env with noFaults := false, faultTape := (List.range n).map (fun i => ones.contains (i + 1)) } }

/-- `bench` with the panel On, as after POWER_ON. -/
def benchOn : State := { bench with cfg := 0x1D#8, pwr := .on, sr := 0x1D#8, q := 0x1D#8, clk := true, data := true }

/-- `bench` right after `PULSE 5, 5, 0` (vector T10); the transmitter takes no step unless the tape says so. -/
def benchPlaying : State :=
  { bench with
    env := { bench.env with txTape := List.replicate 100 0 },
    tx := .running [⟨true, 5#16⟩, ⟨false, 5#16⟩], prog := [⟨true, 5#16⟩, ⟨false, 5#16⟩],
    trace := [.txStart [⟨true, 5#16⟩, ⟨false, 5#16⟩]] }

/-- The state of a next outcome; the reset state for the others, which no test meets. -/
def stateOf : Result → State
  | .next s => s
  | .fault _ => State.reset
  | .refused _ => State.reset

/-- The response word of a next outcome. -/
def responseOf : Result → Option Word
  | .next s => some s.response
  | .fault _ => none
  | .refused _ => none

/-- `stateOf` after one step on the presented word. -/
def after (s : State) (w : Nat) : State := stateOf (step (s.withFetchWord 64 w))

/-- `responseOf` after one step on the presented word. -/
def reply (s : State) (w : Nat) : Option Word := responseOf (step (s.withFetchWord 64 w))

/-! ### Well-formedness and decoding -/

theorem test_wf_rejects_empty_pulse : (Instr.pulse 0#16 0#16 true).wf = false ∧ (Instr.pulse 0#16 1#16 false).wf = true := by
  decide

theorem test_decode_framebuffer :
    decode 0x013BF21B00000003#64 = .ok (.setPixel 959#12 539#12 3#8) ∧
      decode 0x023BF21B00000000#64 = .ok (.getPixel 959#12 539#12) ∧
      decode 0x0300000000000008#64 = .ok (.fill 8#8) ∧
      decode 0x0400000000000000#64 = .ok .clear ∧
      decode 0x050C80C806403208#64 = .ok (.fillRect 200#12 200#12 100#12 50#12 8#8) ∧
      decode 0x0600080000000005#64 = .ok (.drawPixel 0#12 0x800#12 5#8) ∧
      decode 0x0700000000000000#64 = .ok .bbox := by decide

theorem test_decode_register :
    decode 0x1000000000000000#64 = .ok .enPwr ∧ decode 0x1100000000000000#64 = .ok .enVolt ∧
      decode 0x1200000000000000#64 = .ok .enOut ∧ decode 0x1300000000000000#64 = .ok .disOut ∧
      decode 0x1400000000000000#64 = .ok .disVolt ∧ decode 0x1500000000000000#64 = .ok .disPwr := by decide

theorem test_decode_pulse :
    decode 0x20000A0014800000#64 = .ok (.pulse 10#16 20#16 true) ∧
      decode 0x20FFFFFFFF000000#64 = .ok (.pulse 65535#16 65535#16 false) ∧
      decode 0x3F00000000000000#64 = .ok .stat := by decide

theorem test_decode_panel :
    decode 0x3000000000000000#64 = .ok .powerOn ∧ decode 0x3100000000000000#64 = .ok .powerOff ∧
      decode 0x3200000000000000#64 = .ok (.flush .blackOnWhite) ∧
      decode 0x3200000000000001#64 = .ok (.flush .whiteOnBlack) ∧
      decode 0x3200000000000002#64 = .ok (.flush .whiteOnWhite) ∧ decode 0x3300000000000000#64 = .ok .repair := by decide

/-- 95_test_vectors.md 2.5 and the reserved words of 2.1 to 2.4. -/
theorem test_decode_illegal :
    decode 0xFF00000000000000#64 = .error .undefinedOpcode ∧ decode 0x0800000000000000#64 = .error .undefinedOpcode ∧
      decode 0x3E00000000000000#64 = .error .undefinedOpcode ∧ decode 0x0100000000000100#64 = .error .reservedBit ∧
      decode 0x0200000000000001#64 = .error .reservedBit ∧ decode 0x0300000000000108#64 = .error .reservedBit ∧
      decode 0x20000A0014800001#64 = .error .reservedBit ∧ decode 0x3200000000000004#64 = .error .reservedBit ∧
      decode 0x3200000000000003#64 = .error .reservedOperand ∧
      decode 0x2000000000800000#64 = .error .reservedOperand := by decide

theorem test_encode_vectors :
    encode (.fillRect 900#12 500#12 60#12 40#12 2#8) = 0x053841F403C02802#64 ∧
      encode (.pulse 7#16 3#16 true) = 0x2000070003800000#64 ∧ encode (.drawPixel 0xFFF#12 0xFFF#12 200#8) = 0x06FFFFFF000000C8#64 := by
  decide

theorem test_decode_table_word : decodeTableWord 64 0x0100100000000005 = some (.setPixel 1#12 0#12 5#8) := by decide

/-- 30_encoding.md R72. -/
theorem test_text_forms :
    textOf (.drawPixel 0xFFF#12 0#12 5#8) = "DRAW_PIXEL -1, 0, 5" ∧
      assemble "SET_PIXEL 0x1, 0, 5" = some (.setPixel 1#12 0#12 5#8) ∧
      assemble "FLUSH WhiteOnWhite" = some (.flush .whiteOnWhite) ∧ assemble "PULSE 0, 0, 1" = none ∧
      assemble "FILL BlackOnWhite" = none ∧ assemble "GET_PIXEL 1 2, 0" = none ∧ assemble "FLUSH White OnWhite" = none ∧
      assemble "GET_PIXEL  12 , 0 " = some (.getPixel 12#12 0#12) := by decide

/-! ### Framebuffer commands (95_test_vectors.md 1.2, 2.1) -/

/-- S1: `SET_PIXEL 1, 0, 5` then the two reads. -/
theorem test_set_pixel_low_nibble :
    (after bench 0x0100100000000005).byteAt 0 = 0xF5#8 ∧ reply (after bench 0x0100100000000005) 0x0200100000000000 = some 5#64 := by
  decide

/-- F2 with S2, S3: the last pixel, both bounds, the level limit, bounds before level. -/
theorem test_set_pixel_edges :
    (after bench 0x013BF21B0000000F).byteAt 259199 = 0xFF#8 ∧ (after bench 0x013BF21B00000003).byteAt 259199 = 0xF3#8 ∧
      reply bench 0x013C000000000003 = some 0x0100000000000000#64 ∧
      reply bench 0x0100021C00000003 = some 0x0100000000000000#64 ∧
      reply bench 0x0100000000000010 = some 0x0200000000000000#64 ∧
      reply bench 0x013C000000000010 = some 0x0100000000000000#64 := by decide

/-- F7, F8 and the read of a white pixel. -/
theorem test_get_pixel_edges :
    reply bench 0x023BF21B00000000 = some 0xF#64 ∧ reply bench 0x023C000000000000 = some 0x0100000000000000#64 ∧
      reply bench 0x0200021C00000000 = some 0x0100000000000000#64 := by decide

/-- F15, and the packed byte of F12. -/
theorem test_fill_level_limit :
    reply bench 0x0300000000000010 = some 0x0200000000000000#64 ∧ packedLevel 8#8 = 0x88#8 := by decide

/-- F14: `FILL 15` leaves the reset contents. -/
theorem test_fill_white_is_canonical : (after bench 0x030000000000000F).fb = [] := by decide

/-- F16, from one dark byte. -/
theorem test_clear_after_write : (after (after bench 0x0100000000000000) 0x0400000000000000).fb = [] := by decide

/-- F21: odd start, odd end. -/
theorem test_fill_rect_odd_edges :
    (after bench 0x0500100000300200).fb = [(0, 0xF0#8), (1, 0x00#8), (480, 0xF0#8), (481, 0x00#8)] := by decide

/-- F24, F25, F28, F30, F31: the edge, one past it, no wrap of the sum, the level of an empty rectangle, bounds first. -/
theorem test_fill_rect_edges :
    reply bench 0x053C000000000002 = some 0#64 ∧ reply bench 0x053C100000000002 = some 0x0100000000000000#64 ∧
      reply bench 0x05FFF00000100100 = some 0x0100000000000000#64 ∧
      reply bench 0x0500000000000010 = some 0x0200000000000000#64 ∧
      reply bench 0x053C100000000010 = some 0x0100000000000000#64 := by decide

/-- F34: the last pixel of row 0. -/
theorem test_draw_pixel_row_end : (after bench 0x063BF00000000005).fb = [(479, 0xF5#8)] := by decide

/-- F35 to F40: skipped on each side, the level looked at in bounds only. -/
theorem test_draw_pixel_skips :
    (after bench 0x063C000000000005).fb = [] ∧ (after bench 0x06FFF00000000005).fb = [] ∧
      (after bench 0x0600080000000005).fb = [] ∧ reply bench 0x06FFFFFF000000C8 = some 0#64 ∧
      reply bench 0x06003003000000C8 = some 0x0200000000000000#64 := by decide

theorem test_bbox : reply bench 0x0700000000000000 = some 0x00000000003C021C#64 := by decide

/-- P6, stream 2: the pair before the bad colour stays. -/
theorem test_stream_aborts :
    (match runPseudo (.drawStream [(2#12, 2#12, 4#8), (2#12, 2#12, 16#8), (3#12, 2#12, 4#8)]) bench with
      | .next (t, st) => decide (t.fb = [(961, 0x4F#8)] ∧ st = .err .invalidColor)
      | _ => false) = true := by decide

theorem test_dimensions : dimensionsOf (after bench 0x0700000000000000).rdata = (960, 540) := by decide

/-! ### Configuration-register commands (2.2) -/

/-- The 26 events of `EN_PWR` from reset, line by line. -/
theorem test_en_pwr_trace :
    (after bench 0x1000000000000000).trace =
      [.line .stb false, .line .clk false, .line .data false, .line .clk true, .line .clk false, .line .data false,
        .line .clk true, .line .clk false, .line .data false, .line .clk true, .line .clk false, .line .data false,
        .line .clk true, .line .clk false, .line .data false, .line .clk true, .line .clk false, .line .data true,
        .line .clk true, .line .clk false, .line .data false, .line .clk true, .line .clk false, .line .data false,
        .line .clk true, .line .stb true] := by decide +kernel

/-- K1 to K3: no bit is lost. -/
theorem test_enables_out_of_order :
    (after bench 0x1200000000000000).q = 0x01#8 ∧
      (after { bench with cfg := 0x01#8 } 0x1100000000000000).q = 0x19#8 ∧
      (after { bench with cfg := 0x19#8 } 0x1000000000000000).q = 0x1D#8 := by decide +kernel

/-- K4 to K6. -/
theorem test_disables :
    (after { bench with cfg := 0x1D#8 } 0x1500000000000000).q = 0x19#8 ∧
      (after { bench with cfg := 0x19#8 } 0x1300000000000000).q = 0x18#8 ∧
      (after { bench with cfg := 0x18#8 } 0x1400000000000000).q = 0x00#8 := by decide +kernel

/-- K8 and K10: the first and the last operation fail. -/
theorem test_write_fails_at_first_and_last :
    let a := after (benchFaults [1] 26) 0x1000000000000000
    let b := after (benchFaults [26] 26) 0x1000000000000000
    a.response = 0x0400000000000000#64 ∧ a.trace = [] ∧ a.cfg = 0x04#8 ∧ a.q = 0x5A#8 ∧
      b.response = 0x0400000000000000#64 ∧ b.sr = 0x04#8 ∧ b.q = 0x5A#8 ∧ b.stb = false ∧ b.clk = true := by
  decide +kernel

/-! ### The pulse channel (2.3) -/

/-- T1. -/
theorem test_waiting_pulse :
    let t := after bench 0x20000A0014800000
    t.trace = [.txStart [⟨true, 10#16⟩, ⟨false, 20#16⟩], .seg true 10#16, .seg false 20#16, .txEnd] ∧
      t.slot = .present ∧ t.tx = .idle ∧ t.pls = false ∧ t.faultIx = 3 := by decide

/-- T8, T9 and T12: the start fails, the release fails, the earlier pulse still plays. -/
theorem test_pulse_errors :
    let a := after (benchFaults [2] 3) 0x20000A0014800000
    let b := after (benchFaults [3] 3) 0x20000A0014800000
    a.response = 0x0400000000000000#64 ∧ a.slot = .empty ∧ a.tx = .idle ∧ a.prog.length = 2 ∧ a.trace = [] ∧
      b.response = 0x0600000000000000#64 ∧ b.slot = .empty ∧ b.trace.length = 4 ∧
      reply benchPlaying 0x2000070003800000 = some 0x0500000000000000#64 := by decide

/-- T13: the transmitter has taken its three steps before the second pulse is accepted. -/
theorem test_pulse_after_transmitter_finished :
    let t := after { benchPlaying with env := { benchPlaying.env with txTape := [3] } } 0x2000070003800000
    t.response = 0#64 ∧ t.slot = .present ∧ t.prog = [⟨true, 7#16⟩, ⟨false, 3#16⟩] := by decide

/-- Without fairness a wait that the transmitter does not end holds the command: no response, and no step but itself. -/
theorem test_wait_holds_without_fairness :
    let t := after { bench with env := { bench.env with fairTx := false, txTape := [1] }, rdata := 7#56 } 0x20000A0014800000
    t.held = true ∧ t.rdata = 7#56 ∧ t.tx = .running [⟨false, 20#16⟩] ∧ t.slot = .empty ∧ stateOf (step t) = t := by decide

/-- 2.5: the STAT responses. -/
theorem test_stat :
    reply { benchOn with slot := .present } 0x3F00000000000000 = some 0x51D#64 ∧
      reply { benchPlaying with cfg := 0x1D#8, pwr := .on } 0x3F00000000000000 = some 0x91D#64 ∧
      reply { bench with cfg := 0x04#8, pwr := .pending } 0x3F00000000000000 = some 0x204#64 := by decide

/-! ### Power and panel (2.4) -/

/-- P-1. -/
theorem test_power_on :
    let t := after bench 0x3000000000000000
    t.pwr = .on ∧ t.cfg = 0x1D#8 ∧ t.q = 0x1D#8 ∧ t.trace = upEvents 0x00#8 ∧ t.faultIx = 78 := by decide +kernel

/-- P-7: operation 3 of the second write fails. -/
theorem test_power_on_fails :
    let t := after (benchFaults [29] 78) 0x3000000000000000
    t.response = 0x0400000000000000#64 ∧ t.pwr = .pending ∧ t.cfg = 0x1C#8 ∧ t.q = 0x04#8 ∧ t.stb = false ∧
      t.trace = writeEvents 0x04#8 ++ [.settle 10, .line .stb false, .line .clk false] := by decide +kernel

/-- P-3. -/
theorem test_power_off :
    let t := after benchOn 0x3100000000000000
    t.pwr = .off ∧ t.cfg = 0x00#8 ∧ t.q = 0x00#8 ∧ t.trace = downEvents 0x1D#8 := by decide +kernel

/-- P-5 and P-2: no-ops. -/
theorem test_power_no_ops :
    (after bench 0x3100000000000000).trace = [] ∧ (after benchOn 0x3000000000000000).trace = [] := by decide

/-- S6, P-8. -/
theorem test_flush_refused :
    reply bench 0x3200000000000000 = some 0x0300000000000000#64 ∧
      reply { bench with pwr := .pending } 0x3200000000000002 = some 0x0300000000000000#64 := by decide

/-- P-17: an unsafe schedule, the transmitter not stepping. -/
theorem test_unsafe_schedule :
    let r := ({ benchOn with env := benchPlaying.env }).runSched
      [.pulse 5#16 5#16 false (by decide), .pulse 7#16 3#16 true (by decide)]
    r.ending = .raised .channelOwnership ∧ r.state.trace = [.txStart [⟨true, 5#16⟩, ⟨false, 5#16⟩]] := by decide

/-- P-15: REPAIR with no passes. -/
theorem test_repair_without_passes :
    let r := bench.runRepairWith []
    r.ending = .done ∧ r.state.pwr = .off ∧ r.state.cfg = 0x00#8 ∧
      r.state.trace = upEvents 0x00#8 ++ downEvents 0x1D#8 := by decide +kernel

/-! ### Witnesses: states and operands that meet the hypotheses of the statements -/

theorem witness_decode_of_encode : (Instr.pulse 0#16 65535#16 true).WellFormed := by decide

theorem witness_encode_of_decode : ∃ w i, decode w = .ok i := ⟨0x0400000000000000#64, .clear, by decide⟩

theorem witness_undefined_opcode : ∀ p ∈ reservedBits, (0xFF00000000000000#64).extractLsb' 56 8 ≠ p.1 := by
  simp [reservedBits]

theorem witness_reserved_bit :
    ∃ p ∈ reservedBits, (0x3200000000000004#64).extractLsb' 56 8 = p.1 ∧ 0x3200000000000004#64 &&& p.2 ≠ 0#64 := by decide

theorem witness_reserved_operand :
    ((0x3200000000000003#64).extractLsb' 56 8 = 0x32#8 ∧ (0x3200000000000003#64).extractLsb' 0 2 = 3#2) ∧
      ((0x2000000000800000#64).extractLsb' 56 8 = 0x20#8 ∧ (0x2000000000800000#64).extractLsb' 40 16 = 0#16 ∧
        (0x2000000000800000#64).extractLsb' 24 16 = 0#16) := by decide

theorem witness_step_runs :
    let s := bench.present 0x0400000000000000#64
    s.held = false ∧ s.commands = 0x0400000000000000#64 :: [] ∧ decode 0x0400000000000000#64 = .ok .clear ∧ s.tx = .idle := by
  decide

theorem witness_step_illegal :
    let s := benchPlaying.present 0xFF00000000000000#64
    s.held = false ∧ s.commands = 0xFF00000000000000#64 :: [] ∧ decode 0xFF00000000000000#64 = .error .undefinedOpcode := by
  decide

theorem witness_step_without_command :
    (benchPlaying.held = false ∧ benchPlaying.commands = []) ∧ ({ bench with held := true } : State).held = true := by decide

/-- A state of the invariant that reset is not: a dark byte, a running transmission. -/
theorem witness_invariant : ∃ t, ({ benchPlaying with fb := [(7, 0x0F#8)], pls := true } : State).Inv ∧
    step { benchPlaying with fb := [(7, 0x0F#8)], pls := true } = .next t :=
  ⟨_, ⟨by decide, by decide, by decide, by decide, by decide, by decide, by decide,
    fun rest h => by cases h; exact List.suffix_refl _⟩, rfl⟩

theorem witness_receiver :
    ∃ (r : Receiver) (t : State), r.replay bench.trace = bench.receiver ∧ step bench = .next t := ⟨bench.receiver, _, rfl, rfl⟩

theorem witness_whole_machine_rules :
    (∃ t, exec (.flush .blackOnWhite) bench = .next t) ∧ (∃ t, exec (.pulse 1#16 1#16 true) bench = .next t) ∧
      (∃ t, exec .powerOn bench = .next t) ∧ (∃ t, exec .stat bench = .next t) :=
  ⟨⟨_, rfl⟩, ⟨_, rfl⟩, ⟨_, rfl⟩, ⟨_, rfl⟩⟩

theorem witness_no_data_without_reading :
    ∃ t, exec .clear bench = .next t ∧ t.held = false ∧ (t.status ≠ .ok ∨ ((∀ x y, Instr.clear ≠ .getPixel x y) ∧
      Instr.clear ≠ .bbox ∧ Instr.clear ≠ .stat)) :=
  ⟨_, rfl, rfl, .inr ⟨(fun _ _ h => by cases h), by decide, by decide⟩⟩

theorem witness_error_kind :
    ∃ t, Instr.WellFormed (.fill 16#8) ∧ exec (.fill 16#8) bench = .next t ∧ t.held = false ∧
      t.status = .err .invalidColor := ⟨_, by decide, rfl, rfl, rfl⟩

theorem witness_framebuffer_commutes :
    ∃ t, isFramebufferCommand (.setPixel 0#12 0#12 0#8) = true ∧ exec (.setPixel 0#12 0#12 0#8) benchPlaying = .next t :=
  ⟨_, rfl, rfl⟩

/-- Two states with one framebuffer and one instance that differ in the control state, the lines and the trace. -/
theorem witness_framebuffer_only :
    isFramebufferCommand .clear = true ∧
      ({ benchOn with prog := [⟨true, 1#16⟩], slot := .present, pls := true, trace := [.bus 1] } : State).env = bench.env ∧
      ({ benchOn with prog := [⟨true, 1#16⟩], slot := .present, pls := true, trace := [.bus 1] } : State).fb = bench.fb :=
  ⟨rfl, rfl, rfl⟩

theorem witness_last_pixel : 518399 < bench.env.geom.npix ∧ 518399 % 2 = 1 ∧ 518398 % 2 = 0 := by decide

theorem witness_stream :
    (∀ p ∈ [(0#12, 0#12, 15#8), (960#12, 0#12, 0#8)], p.2.2.toNat ≤ 15) ∧
      0 ≤ (959#12).toInt ∧ (959#12).toInt < bench.width ∧ 0 ≤ (539#12).toInt ∧ (539#12).toInt < bench.height ∧
      15 < (16#8).toNat := by
  simp [bench, State.width, State.height, State.reset, Env.reset, Geometry.epd47, BitVec.toInt]

theorem witness_no_faults : bench.NoFaultFor 78 ∧ benchOn.NoFaultFor 78 :=
  ⟨fun _ _ => rfl, fun _ _ => rfl⟩

theorem witness_shift_completes : (bench.shiftOut 0x1D#8).ending = .done := by decide +kernel

theorem witness_shift_fails_first :
    (benchFaults [1] 26).NoFaultFor 0 ∧ (benchFaults [1] 26).faultAt ((benchFaults [1] 26).faultIx + 0) = true :=
  ⟨fun _ h => absurd h (Nat.not_lt_zero _), by decide⟩

theorem witness_shift_fails_last :
    (benchFaults [26] 26).NoFaultFor 25 ∧ (benchFaults [26] 26).faultAt ((benchFaults [26] 26).faultIx + 25) = true ∧
      (((benchFaults [26] 26).shiftOut 0x04#8).state.faultIx = 26) := by
  unfold State.NoFaultFor; decide +kernel

theorem witness_register_ignores : ∃ t, exec (cfgInstr .disVolt) bench = .next t := ⟨_, rfl⟩

theorem witness_pulse_program : (65535#16 ≠ 0#16 ∧ 1#16 ≠ 0#16) ∧ (1#16 ≠ 0#16 ∧ 0#16 = 0#16) := by decide

theorem witness_waiting_pulse :
    ¬(0#16 = 0#16 ∧ 50#16 = 0#16) ∧ bench.tx = .idle ∧ bench.env.fairTx = true ∧
      bench.NoFaultFor (bench.constructSamples + 2) ∧ bench.NoFaultFor (bench.constructSamples + 1) :=
  ⟨by decide, rfl, rfl, fun _ _ => rfl, fun _ _ => rfl⟩

theorem witness_acquire_and_start :
    ({ bench with slot := .present } : State).slot = .present ∧ (benchPlaying.slot = .empty ∧ benchPlaying.tx ≠ .idle) ∧
      ((benchFaults [1] 1).slot = .empty ∧ (benchFaults [1] 1).tx = .idle ∧ (benchFaults [1] 1).fault = true) ∧
      (bench.slot = .empty ∧ bench.tx = .idle ∧ bench.fault = false) := by decide

theorem witness_pulse_busy : benchPlaying.slot = .empty ∧ benchPlaying.tx = .running [⟨true, 5#16⟩, ⟨false, 5#16⟩] := by decide

theorem witness_pulse_faults :
    ((benchFaults [1] 3).slot = .empty ∧ (benchFaults [1] 3).faultAt 0 = true) ∧
      ((benchFaults [2] 3).NoFaultFor 1 ∧ (benchFaults [2] 3).faultAt 1 = true) ∧
      ((benchFaults [3] 3).env.fairTx = true ∧ (benchFaults [3] 3).NoFaultFor 2 ∧ (benchFaults [3] 3).faultAt 2 = true) := by
  unfold State.NoFaultFor; decide

theorem witness_pulse_faults_held_channel :
    let s : State := { benchFaults [1] 3 with slot := .present }
    s.tx = .idle ∧ s.NoFaultFor s.constructSamples ∧ s.faultAt (s.faultIx + s.constructSamples) = true :=
  ⟨rfl, fun _ h => absurd h (Nat.not_lt_zero _), by decide⟩

theorem witness_wait_ends : bench.held = false ∧ ¬(1#16 = 0#16 ∧ 0#16 = 0#16) := by decide

/-- The ends of R128's wait, one state for each clause: `OK`, `Internal`, held. -/
theorem witness_wait_ends_each :
    let ok := stateOf (exec (.pulse 1#16 0#16 true) bench)
    let internal := stateOf (exec (.pulse 1#16 0#16 true) (benchFaults [3] 3))
    let held := stateOf (exec (.pulse 1#16 0#16 true) { bench with env := { bench.env with fairTx := false, txTape := [0] } })
    (ok.held = false ∧ ok.status = .ok) ∧ (internal.held = false ∧ internal.status = .err .internal) ∧ held.held = true := by
  decide

theorem witness_transmission : benchPlaying.tx = .running [⟨true, 5#16⟩, ⟨false, 5#16⟩] ∧ (2 : Nat) ≤ 2 := by decide

theorem witness_power_sequences : bench.pwr ≠ .on ∧ benchOn.pwr ≠ .off ∧ benchOn.pwr = .on ∧ bench.pwr = .off := by decide

theorem witness_power_idempotent :
    ∃ t, exec .powerOn benchOn = .next t ∧ t.status = .ok ∧ ∃ u, exec .powerOff bench = .next u ∧ u.status = .ok :=
  ⟨_, rfl, rfl, _, rfl, rfl⟩

theorem witness_rail_order :
    let s : State := { bench with q := 0x00#8 }
    ∃ t, s.receiver.replay s.trace = s.receiver ∧ railsInOrder s.cfg = true ∧ railsInOrder s.q = true ∧
      exec .powerOn s = .next t := ⟨_, rfl, rfl, rfl, rfl⟩

theorem witness_schedule_order :
    (benchOn.runSched [.settle 1]).ending = .done ∧
      (({ benchFaults [1] 3 with pwr := .on } : State).runSched [.bus 0]).ending ≠ .done := by decide

theorem witness_schedule_step :
    (benchFaults [1] 1).fault = true ∧ bench.fault = false ∧ ¬(0#16 = 0#16 ∧ 1#16 = 0#16) := by decide

/-- A REPAIR that ends in its first part, in its passes, and in its last part. -/
theorem witness_repair_parts :
    (benchFaults [1] 1).runPowerOn.ending ≠ .done ∧
      (benchOn.runPowerOn.ending = .done ∧
        (({ benchFaults [1] 1 with pwr := .on } : State).runPowerOn.state.runSched [.bus 0]).ending ≠ .done) ∧
      (benchOn.runPowerOn.state.runSched [.settle 1]).ending = .done := by decide

theorem witness_safe_schedule :
    noPulseAfterNonWaiting [.pulse 30#16 30#16 true (by decide), .settle 50, .pulse 30#16 30#16 false (by decide), .bus 1] = true ∧
      noPulseAfterNonWaiting [.pulse 5#16 5#16 false (by decide), .pulse 7#16 3#16 true (by decide)] = false ∧
      benchOn.env.noFaults = true ∧ benchOn.env.fairTx = true ∧ benchOn.tx = .idle := by decide

end Sys2Proof.Tests
end

section
/-! PROOFS. The state family (10_state.md): what a step and a command can answer, said once each, and the invariants that
follow. -/

namespace Sys2Proof.Machine

/-! ### What a step can answer (10_state.md R12; 30_encoding.md R60, R68 to R71) -/

/-- EVERYTHING a step can answer: the machine held where it is, one step of the transmitter, or one presented word, whose
command runs or which is illegal. -/
theorem step_cases {s t : State} (h : step s = .next t) :
    (s.held = true ∧ t = s) ∨ (s.held = false ∧ s.commands = [] ∧ t = s.txStep) ∨
      ∃ w rest, s.held = false ∧ s.commands = w :: rest ∧
        ((∃ i, decode w = .ok i ∧ exec i (s.accept rest) = .next t) ∨
          (∃ e, decode w = .error e ∧ t = (s.accept rest).raise .illegalCommand)) := by
  unfold step at h
  split at h
  next hheld => exact .inl ⟨hheld, (Host.Outcome.next.inj h).symm⟩
  next hheld hnone => exact .inr (.inl ⟨hheld, hnone, (Host.Outcome.next.inj h).symm⟩)
  next w rest hheld hword =>
    refine .inr (.inr ⟨w, rest, hheld, hword, ?_⟩)
    unfold execWord at h
    split at h
    next i hi => exact .inl ⟨i, hi, h⟩
    next e he => exact .inr ⟨e, he, (Host.Outcome.next.inj h).symm⟩

/-- A property kept by the transmitter agent, by the bookkeeping of an accepted word, by the answer to an illegal word and by
every command is kept by every step. -/
theorem step_keeps {R : State → Prop} {s t : State} (hcommands : ∀ u rest, R u → R { u with commands := rest })
    (hix : ∀ u k, R u → R { u with txIx := k }) (htx : ∀ u, R u → R u.txStep)
    (hillegal : ∀ u, R u → R (u.raise .illegalCommand)) (hexec : ∀ i u v, R u → exec i u = .next v → R v)
    (hs : R s) (h : step s = .next t) : R t := by
  have haccept : ∀ rest, R (s.accept rest) := fun rest => State.yield_keeps (hcommands s rest hs) hix htx
  rcases step_cases h with ⟨-, rfl⟩ | ⟨-, -, rfl⟩ | ⟨w, rest, -, -, ⟨i, -, hi⟩ | ⟨e, -, rfl⟩⟩
  · exact hs
  · exact htx s hs
  · exact hexec i _ _ (haccept rest) hi
  · exact hillegal _ (haccept rest)

/-! ### What a write of the framebuffer keeps (20_memory.md R40, R50) -/

/-- The contents `m` are in canonical form and in range if those of `s` are. -/
def State.KeepsFbForm (s : State) (m : Memory) : Prop :=
  (s.fb.wf → m.wf) ∧ ((∀ c ∈ s.fb, c.1 < s.fbBytes) → ∀ c ∈ m, c.1 < s.fbBytes)

theorem State.keepsFbForm_fb (s : State) : s.KeepsFbForm s.fb := ⟨id, id⟩

theorem State.keepsFbForm_withPixel (s : State) {idx : Nat} (v : Nibble) (h : idx / 2 < s.fbBytes) :
    s.KeepsFbForm (s.withPixel idx v).fb := by
  refine ⟨fun hwf => Memory.wf_write hwf _ _, fun hin c hc => ?_⟩
  rcases Memory.mem_write hc with hca | hc
  · exact hca ▸ h
  · exact hin c hc

theorem State.keepsFbForm_fillBytes (s : State) (b : Byte) : s.KeepsFbForm (s.fillBytes b).fb :=
  ⟨fun _ => s.wf_fillBytes b, fun _ => s.fillBytes_in_range b⟩

/-- `t` is `s` with a response and other contents of the framebuffer, no less canonical and in range. -/
def State.Drawn (s t : State) : Prop :=
  ∃ m st d, s.KeepsFbForm m ∧ t = ({ s with fb := m } : State).respond st d

theorem State.drawn_respond (s : State) (st : Status) (d : BitVec 56) : s.Drawn (s.respond st d) :=
  ⟨s.fb, st, d, s.keepsFbForm_fb, rfl⟩

theorem State.drawn_raise (s : State) (k : ErrKind) : s.Drawn (s.raise k) := s.drawn_respond _ _

theorem State.drawAt_drawn {s t : State} {x y : Int} {level : BitVec 8} (hin : s.inBounds x y = true)
    (h : s.drawAt x y level = .next t) : s.Drawn t := by
  rcases s.drawAt_cases level hin with ⟨-, e⟩ | ⟨-, e⟩ <;> rw [e] at h <;> obtain rfl := Host.Outcome.next.inj h
  · exact ⟨_, _, _, s.keepsFbForm_withPixel _ (s.half_pixelIndex_lt hin), rfl⟩
  · exact s.drawn_raise _

theorem execSetPixel_drawn {s t : State} {x y : BitVec 12} {level : BitVec 8} (h : execSetPixel x y level s = .next t) :
    s.Drawn t := by
  unfold execSetPixel at h
  split at h
  next hin => exact State.drawAt_drawn hin h
  next => exact Host.Outcome.next.inj h ▸ s.drawn_raise _

theorem execDrawPixel_drawn {s t : State} {x y : BitVec 12} {level : BitVec 8} (h : execDrawPixel x y level s = .next t) :
    s.Drawn t := by
  unfold execDrawPixel at h
  split at h
  next hin => exact State.drawAt_drawn hin h
  next => exact Host.Outcome.next.inj h ▸ s.drawn_respond _ _

theorem execFill_drawn {s t : State} {level : BitVec 8} (h : execFill level s = .next t) : s.Drawn t := by
  unfold execFill at h
  split at h <;> obtain rfl := Host.Outcome.next.inj h
  · exact ⟨_, _, _, s.keepsFbForm_fillBytes _, rfl⟩
  · exact s.drawn_raise _

theorem execClear_drawn {s t : State} (h : execClear s = .next t) : s.Drawn t :=
  Host.Outcome.next.inj h ▸ ⟨_, _, _, s.keepsFbForm_fillBytes 0xFF#8, rfl⟩

theorem execFillRect_drawn {s t : State} {x y w h : BitVec 12} {level : BitVec 8}
    (he : execFillRect x y w h level s = .next t) : s.Drawn t := by
  unfold execFillRect at he
  split at he
  next hin =>
    split at he
    · obtain ⟨m, hm, -, hwf, hrange, -⟩ := s.nibWriteAll_ok _ (levelNibble level) (s.half_rectPixel_lt hin)
      rw [hm] at he
      exact ⟨m, _, _, ⟨hwf, hrange⟩, (Host.Outcome.next.inj he).symm⟩
    · exact Host.Outcome.next.inj he ▸ s.drawn_raise _
  next => exact Host.Outcome.next.inj he ▸ s.drawn_raise _

theorem execGetPixel_responds {s t : State} {x y : BitVec 12} (h : execGetPixel x y s = .next t) :
    ∃ st d, t = s.respond st d := by
  unfold execGetPixel at h
  split at h
  next =>
    split at h
    · exact ⟨_, _, (Host.Outcome.next.inj h).symm⟩
    · cases h
  next => exact ⟨_, _, (Host.Outcome.next.inj h).symm⟩

/-! ### What a command can answer (spec/opcode_table.json) -/

/-- The five commands that write the framebuffer. -/
def writesFramebuffer : Instr → Bool
  | .setPixel .. | .fill _ | .clear | .fillRect .. | .drawPixel .. => true
  | _ => false

/-- The three commands that read the state and only respond. -/
def onlyReads : Instr → Bool
  | .getPixel .. | .bbox | .stat => true
  | _ => false

/-- The states a command can lead to from `s`: a response alone, the framebuffer drawn on, or the end of the command's run of
hardware steps. -/
inductive Answers (s : State) : Instr → State → Prop
  | reads {i : Instr} (hi : onlyReads i = true) (st : Status) (d : BitVec 56) : Answers s i (s.respond st d)
  | draws {i : Instr} {t : State} (hi : writesFramebuffer i = true) (ht : s.Drawn t) : Answers s i t
  | cfg (c : CfgCommand) : Answers s (cfgInstr c) (s.runCfg c).finish
  | emptyPulse (w : Bool) : Answers s (.pulse 0#16 0#16 w) (s.raise .illegalCommand)
  | pulse {high low : BitVec 16} (h : ¬(high = 0#16 ∧ low = 0#16)) (w : Bool) :
      Answers s (.pulse high low w) (s.runPulse high low w).finish
  | powerOn : Answers s .powerOn s.runPowerOn.finish
  | powerOff : Answers s .powerOff s.runPowerOff.finish
  | flush (m : DrawMode) : Answers s (.flush m) (s.runFlush m).finish
  | repair : Answers s .repair (s.runRepairWith (Config.repairSched s.env.geom)).finish

/-- EVERYTHING a command can answer. -/
theorem exec_answers {i : Instr} {s t : State} (h : exec i s = .next t) : Answers s i t := by
  cases i with
  | setPixel x y level => exact .draws rfl (execSetPixel_drawn h)
  | getPixel x y => obtain ⟨st, d, rfl⟩ := execGetPixel_responds h; exact .reads rfl st d
  | fill level => exact .draws rfl (execFill_drawn h)
  | clear => exact .draws rfl (execClear_drawn h)
  | fillRect x y w h' level => exact .draws rfl (execFillRect_drawn h)
  | drawPixel x y level => exact .draws rfl (execDrawPixel_drawn h)
  | bbox => exact Host.Outcome.next.inj h ▸ .reads rfl _ _
  | enPwr => exact Host.Outcome.next.inj h ▸ .cfg .enPwr
  | enVolt => exact Host.Outcome.next.inj h ▸ .cfg .enVolt
  | enOut => exact Host.Outcome.next.inj h ▸ .cfg .enOut
  | disOut => exact Host.Outcome.next.inj h ▸ .cfg .disOut
  | disVolt => exact Host.Outcome.next.inj h ▸ .cfg .disVolt
  | disPwr => exact Host.Outcome.next.inj h ▸ .cfg .disPwr
  | pulse high low w =>
    by_cases hz : high = 0#16 ∧ low = 0#16
    · obtain ⟨rfl, rfl⟩ := hz
      exact Host.Outcome.next.inj h ▸ .emptyPulse w
    · have hrun : exec (.pulse high low w) s = .next (s.runPulse high low w).finish := if_neg hz
      rw [hrun] at h
      exact Host.Outcome.next.inj h ▸ .pulse hz w
  | powerOn => exact Host.Outcome.next.inj h ▸ .powerOn
  | powerOff => exact Host.Outcome.next.inj h ▸ .powerOff
  | flush m => exact Host.Outcome.next.inj h ▸ .flush m
  | repair => exact Host.Outcome.next.inj h ▸ .repair
  | stat => exact Host.Outcome.next.inj h ▸ .reads rfl _ _

/-! ### The trace and the parameters (10_state.md R22, R26, R31) -/

theorem exec_grew {i : Instr} {s t : State} (h : exec i s = .next t) : s.Grew t := by
  cases exec_answers h with
  | reads hi st d => exact .of_same rfl rfl
  | draws hi ht => obtain ⟨m, st, d, -, rfl⟩ := ht; exact .of_same rfl rfl
  | cfg c => exact Run.finish_grew (s.runCfg_grew c)
  | emptyPulse w => exact .of_same rfl rfl
  | pulse hz w => exact Run.finish_grew (s.runPulse_grew _ _ w)
  | powerOn => exact Run.finish_grew s.runPowerOn_grew
  | powerOff => exact Run.finish_grew s.runPowerOff_grew
  | flush m => exact Run.finish_grew (s.runFlush_grew m)
  | repair => exact Run.finish_grew (s.runRepairWith_grew _)

theorem step_grew {s t : State} (h : step s = .next t) : s.Grew t :=
  step_keeps (R := s.Grew) (fun _ _ hu => hu.trans (.of_same rfl rfl)) (fun _ _ hu => hu.trans (.of_same rfl rfl))
    (fun u hu => hu.trans u.txStep_grew) (fun _ hu => hu.trans (.of_same rfl rfl))
    (fun _ _ _ hu hi => hu.trans (exec_grew hi)) (.refl s) h

@[simp] theorem Run.finish_env (r : Run) : r.finish.env = r.state.env :=
  Run.finish_keeps (fun _ _ _ => rfl) (fun _ _ => rfl) r

theorem exec_env {i : Instr} {s t : State} (h : exec i s = .next t) : t.env = s.env := by
  cases exec_answers h with
  | reads hi st d => rfl
  | draws hi ht => obtain ⟨m, st, d, -, rfl⟩ := ht; rfl
  | cfg c => simp
  | emptyPulse w => rfl
  | pulse hz w => simp
  | powerOn => simp
  | powerOff => simp
  | flush m => simp
  | repair => simp

theorem step_env {s t : State} (h : step s = .next t) : t.env = s.env :=
  step_keeps (R := fun u => u.env = s.env) (fun _ _ hu => hu) (fun _ _ hu => hu)
    (fun u hu => u.txStep_env.trans hu) (fun _ hu => hu) (fun _ _ _ hu hi => (exec_env hi).trans hu) rfl h

/-! ### The invariant of the block (10_state.md R16, R21; 42_pulse_ops.md R130; 20_memory.md R52) -/

/-- The invariant speaks of seven fields alone. -/
theorem State.Inv.of_same {s t : State} (h : s.Inv) (henv : t.env = s.env) (hfb : t.fb = s.fb) (hcfg : t.cfg = s.cfg)
    (hslot : t.slot = s.slot) (htx : t.tx = s.tx) (hpls : t.pls = s.pls) (hprog : t.prog = s.prog) : t.Inv where
  fb_wf := hfb ▸ h.fb_wf
  fb_in_range c hc := by
    have : t.fbBytes = s.fbBytes := by simp [State.fbBytes, henv]
    exact this ▸ h.fb_in_range c (hfb ▸ hc)
  cfg_reachable := hcfg ▸ h.cfg_reachable
  slot_tx hp := htx ▸ h.slot_tx (hslot ▸ hp)
  pls_low hi := hpls ▸ h.pls_low (htx ▸ hi)
  prog_short := hprog ▸ h.prog_short
  prog_positive := hprog ▸ h.prog_positive
  tx_of_prog rest hr := hprog ▸ h.tx_of_prog rest (htx ▸ hr)

theorem State.Inv.respond {s : State} (h : s.Inv) (st : Status) (d : BitVec 56) : (s.respond st d).Inv :=
  h.of_same rfl rfl rfl rfl rfl rfl rfl

theorem State.Inv.raise {s : State} (h : s.Inv) (k : ErrKind) : (s.raise k).Inv := h.respond _ _

theorem State.Inv.sampled {s : State} (h : s.Inv) : s.sampled.Inv := h.of_same rfl rfl rfl rfl rfl rfl rfl

theorem State.Inv.emit {s : State} (h : s.Inv) (e : Event) : (s.emit e).Inv := h.of_same rfl rfl rfl rfl rfl rfl rfl

theorem State.Inv.setLine {s : State} (h : s.Inv) (n : Line) (b : Bool) : (s.setLine n b).Inv := by
  apply h.of_same <;> simp

theorem State.Inv.withPwr {s : State} (h : s.Inv) (p : PowerState) : ({ s with pwr := p } : State).Inv :=
  h.of_same rfl rfl rfl rfl rfl rfl rfl

theorem State.Inv.drawn {s t : State} (h : s.Inv) (hd : s.Drawn t) : t.Inv := by
  obtain ⟨m, st, d, ⟨hwf, hrange⟩, rfl⟩ := hd
  exact { h with fb_wf := hwf h.fb_wf, fb_in_range := hrange h.fb_in_range }

/-- An idle transmitter may be given to the slot. -/
theorem State.Inv.present {s : State} (h : s.Inv) (hidle : s.tx = .idle) : ({ s with slot := .present } : State).Inv :=
  { h with slot_tx := fun _ => hidle }

theorem State.Inv.release {s : State} (h : s.Inv) : ({ s with slot := .empty } : State).Inv :=
  { h with slot_tx := nofun }

/-! #### The transmitter (42_pulse_ops.md R129) -/

theorem State.Inv.txStep {s : State} (h : s.Inv) : s.txStep.Inv := by
  unfold State.txStep
  split
  next => exact h
  next g rest htx =>
    have hslot : s.slot ≠ .present := fun hp => by rw [h.slot_tx hp] at htx; cases htx
    have hrest : rest <:+ s.prog := (List.suffix_cons g rest).trans (h.tx_of_prog _ htx)
    exact { h with
      slot_tx := fun hp => absurd hp hslot
      pls_low := nofun
      tx_of_prog := fun r hr => by cases hr; exact hrest }
  next => exact { h with slot_tx := fun _ => rfl, pls_low := fun _ => rfl, tx_of_prog := nofun }

theorem State.Inv.yield {s : State} (h : s.Inv) : s.yield.Inv :=
  State.yield_keeps h (fun _ _ hu => hu.of_same rfl rfl rfl rfl rfl rfl rfl) (fun _ hu => hu.txStep)

theorem State.Inv.drain {s : State} (h : s.Inv) : s.drain.Inv := by
  obtain ⟨n, e⟩ := s.drain_spec
  exact e ▸ State.txSteps_keeps n h (fun _ hu => hu.txStep)

/-! #### A configuration command (41_config_register_ops.md R102 to R109) -/

theorem cfgByte_reachable (c : CfgCommand) : ∀ v ∈ reachableCfg, cfgByte c v ∈ reachableCfg := by
  cases c <;> decide

theorem State.Inv.lineOps {s : State} (h : s.Inv) (ops : List (Line × Bool)) : (s.lineOps ops).state.Inv := by
  induction ops generalizing s with
  | nil => exact h
  | cons o rest ih =>
    have hop : (s.lineOp o.1 o.2).state.Inv :=
      State.unlessFault_keeps h.yield.sampled (fun hu => hu.setLine o.1 o.2)
    exact Run.andThen_keeps hop (fun _ hu => ih hu)

theorem State.Inv.runCfg {s : State} (h : s.Inv) (c : CfgCommand) : (s.runCfg c).state.Inv := by
  have hcfg : ({ s with cfg := cfgByte c s.cfg } : State).Inv :=
    { h with cfg_reachable := cfgByte_reachable c _ h.cfg_reachable }
  exact hcfg.lineOps _

/-! #### The pulse channel (42_pulse_ops.md R120 to R128) -/

theorem buildSegs_length_le (high low : BitVec 16) : (buildSegs high low).length ≤ 2 := by
  unfold buildSegs
  split <;> split <;> simp

theorem buildSegs_positive (high low : BitVec 16) : ∀ g ∈ buildSegs high low, g.ticks ≠ 0#16 := by
  unfold buildSegs
  split <;> split <;> simp [*]

/-- Acquire keeps the invariant, and goes through only with the channel held (R122). -/
theorem State.Inv.acquire {s : State} (h : s.Inv) :
    s.acquire.state.Inv ∧ (s.acquire.ending = .done → s.acquire.state.slot = .present) := by
  unfold State.acquire
  split
  next hslot => exact ⟨h, fun _ => hslot⟩
  next =>
    split
    next => exact ⟨h, nofun⟩
    next hbusy =>
      have hidle : s.tx = .idle := by
        cases htx : s.tx with
        | idle => rfl
        | running rest => simp [State.txBusy, htx] at hbusy
      rcases s.unlessFault_cases .peripheralFailure (fun t => ({ t with slot := .present } : State).done) with
        ⟨-, e⟩ | ⟨-, e⟩ <;> rw [e]
      · exact ⟨h.sampled.present hidle, fun _ => rfl⟩
      · exact ⟨h.sampled, nofun⟩

theorem State.Inv.build {s : State} (h : s.Inv) (hidle : s.tx = .idle) (high low : BitVec 16) : (s.build high low).Inv :=
  { h with
    prog_short := buildSegs_length_le high low
    prog_positive := buildSegs_positive high low
    tx_of_prog := fun rest hr => by
      have : s.tx = .running rest := hr
      rw [hidle] at this
      cases this }

theorem State.Inv.start {s : State} (h : s.Inv) {segs : List Seg} (hprog : s.prog = segs) : (s.start segs).state.Inv := by
  refine State.unlessFault_keeps h.release.sampled (fun hu => ?_)
  exact { hu with
    slot_tx := nofun
    pls_low := nofun
    tx_of_prog := fun rest hr => by
      cases hr
      exact hprog ▸ List.suffix_refl _ }

/-- The wait keeps the invariant, and goes through only with the transmitter idle (R128, R131). -/
theorem State.Inv.waitIdle {s : State} (h : s.Inv) :
    s.waitIdle.state.Inv ∧ (s.waitIdle.ending = .done → s.waitIdle.state.tx = .idle) := by
  have hwaited : (if s.env.fairTx then s.drain else s.yield).Inv := by
    split
    · exact h.drain
    · exact h.yield
  unfold State.waitIdle
  dsimp only
  split
  next hidle => exact ⟨hwaited, fun _ => hidle⟩
  next => exact ⟨hwaited, nofun⟩

theorem State.Inv.waitAndReclaim {s : State} (h : s.Inv) : s.waitAndReclaim.state.Inv := by
  obtain ⟨hwaited, hidle⟩ := h.waitIdle
  rcases s.waitIdle.andThen_cases _ with ⟨hd, e⟩ | ⟨-, e⟩ <;> unfold State.waitAndReclaim <;> rw [e]
  · exact State.unlessFault_keeps hwaited.sampled (fun hu => hu.present (hidle hd))
  · exact hwaited

theorem State.Inv.runPulse {s : State} (h : s.Inv) (high low : BitVec 16) (w : Bool) : (s.runPulse high low w).state.Inv := by
  obtain ⟨hacq, hheld⟩ := h.acquire
  rcases s.acquire.andThen_cases _ with ⟨hd, e⟩ | ⟨-, e⟩ <;> unfold State.runPulse <;> rw [e]
  · have hidle : s.acquire.state.tx = .idle := hacq.slot_tx (hheld hd)
    refine Run.andThen_keeps ((hacq.build hidle high low).start rfl) (fun u hu => ?_)
    split
    · exact hu.waitAndReclaim
    · exact hu
  · exact hacq

/-! #### Schedules and power sequences (43_power_and_panel_ops.md R140 to R149) -/

theorem State.Inv.settle {s : State} (h : s.Inv) (ms : Nat) : (s.settle ms).Inv := h.yield.emit _

theorem State.Inv.runStep {s : State} (h : s.Inv) (st : SchedStep) : (s.runStep st).state.Inv := by
  cases st with
  | pulse high low w hne => exact h.runPulse high low w
  | cfg c => exact h.runCfg c
  | settle ms => exact h.settle ms
  | bus tag => exact State.unlessFault_keeps h.sampled (fun hu => hu.emit _)

theorem State.Inv.runSched {s : State} (h : s.Inv) (l : List SchedStep) : (s.runSched l).state.Inv := by
  induction l generalizing s with
  | nil => exact h
  | cons st rest ih => exact Run.andThen_keeps (h.yield.runStep st) (fun _ hu => ih hu)

theorem State.Inv.writeAndSettle {s : State} (h : s.Inv) (c : CfgCommand) (ms : Nat) : (s.writeAndSettle c ms).state.Inv :=
  Run.andThen_keeps (h.runCfg c) (fun _ hu => hu.settle ms)

theorem State.Inv.threeWrites {s : State} (h : s.Inv) (c1 c2 c3 : CfgCommand) (m1 m2 m3 : Nat) (p : PowerState) :
    (threeWrites s c1 c2 c3 m1 m2 m3 p).state.Inv := by
  have htwo := Run.andThen_keeps (h.writeAndSettle c1 m1) (fun _ hu => hu.writeAndSettle c2 m2)
  exact Run.andThen_keeps htwo (fun _ hu => Run.andThen_keeps (hu.writeAndSettle c3 m3) (fun _ hv => hv.withPwr p))

theorem State.Inv.runPowerOn {s : State} (h : s.Inv) : s.runPowerOn.state.Inv := by
  by_cases hp : s.pwr = .on
  · rw [State.runPowerOn, hp]; exact h
  · rw [s.runPowerOn_eq hp]; exact (h.withPwr _).threeWrites _ _ _ _ _ _ _

theorem State.Inv.runPowerOff {s : State} (h : s.Inv) : s.runPowerOff.state.Inv := by
  by_cases hp : s.pwr = .off
  · rw [State.runPowerOff, hp]; exact h
  · rw [s.runPowerOff_eq hp]; exact (h.withPwr _).threeWrites _ _ _ _ _ _ _

theorem State.Inv.runFlush {s : State} (h : s.Inv) (m : DrawMode) : (s.runFlush m).state.Inv := by
  unfold State.runFlush
  split
  · exact h.runSched _
  · exact h

theorem State.Inv.runRepairWith {s : State} (h : s.Inv) (l : List SchedStep) : (s.runRepairWith l).state.Inv :=
  Run.andThen_keeps (Run.andThen_keeps h.runPowerOn (fun _ hu => hu.runSched l)) (fun _ hu => hu.runPowerOff)

/-! #### Commands and steps -/

theorem State.Inv.finish {r : Run} (h : r.state.Inv) : r.finish.Inv := by
  rcases r.finish_cases with ⟨-, e⟩ | ⟨k, -, e⟩ | ⟨-, e⟩ <;> rw [e]
  · exact h.respond _ _
  · exact h.raise k
  · exact h.of_same rfl rfl rfl rfl rfl rfl rfl

theorem State.Inv.exec {i : Instr} {s t : State} (h : s.Inv) (he : exec i s = .next t) : t.Inv := by
  cases exec_answers he with
  | reads hi st d => exact h.respond st d
  | draws hi ht => exact h.drawn ht
  | cfg c => exact (h.runCfg c).finish
  | emptyPulse w => exact h.raise _
  | pulse hz w => exact (h.runPulse _ _ w).finish
  | powerOn => exact h.runPowerOn.finish
  | powerOff => exact h.runPowerOff.finish
  | flush m => exact (h.runFlush m).finish
  | repair => exact (h.runRepairWith _).finish

theorem State.Inv.step {s t : State} (h : s.Inv) (hs : step s = .next t) : t.Inv :=
  step_keeps (R := State.Inv) (fun _ _ hu => hu.of_same rfl rfl rfl rfl rfl rfl rfl)
    (fun _ _ hu => hu.of_same rfl rfl rfl rfl rfl rfl rfl) (fun _ hu => hu.txStep) (fun _ hu => hu.raise _)
    (fun _ _ _ hu hi => hu.exec hi) h hs

/-! ### Which commands write which registers (10_state.md R13, R15, R17, R18, R21) -/

@[simp] theorem Run.finish_fb (r : Run) : r.finish.fb = r.state.fb :=
  Run.finish_keeps (fun _ _ _ => rfl) (fun _ _ => rfl) r
@[simp] theorem Run.finish_cfg (r : Run) : r.finish.cfg = r.state.cfg :=
  Run.finish_keeps (fun _ _ _ => rfl) (fun _ _ => rfl) r
@[simp] theorem Run.finish_pwr (r : Run) : r.finish.pwr = r.state.pwr :=
  Run.finish_keeps (fun _ _ _ => rfl) (fun _ _ => rfl) r
@[simp] theorem Run.finish_slot (r : Run) : r.finish.slot = r.state.slot :=
  Run.finish_keeps (fun _ _ _ => rfl) (fun _ _ => rfl) r
@[simp] theorem Run.finish_prog (r : Run) : r.finish.prog = r.state.prog :=
  Run.finish_keeps (fun _ _ _ => rfl) (fun _ _ => rfl) r
@[simp] theorem Run.finish_receiver (r : Run) : r.finish.receiver = r.state.receiver :=
  Run.finish_keeps (fun _ _ _ => rfl) (fun _ _ => rfl) r

@[simp] theorem State.runPulse_receiver (s : State) (high low : BitVec 16) (w : Bool) :
    (s.runPulse high low w).state.receiver = s.receiver := by
  simp [State.receiver]

theorem Answers.pwr_eq {i : Instr} {s t : State} (h : Answers s i t) (hon : i ≠ .powerOn) (hoff : i ≠ .powerOff)
    (hrep : i ≠ .repair) : t.pwr = s.pwr := by
  cases h with
  | reads hi st d => rfl
  | draws hi ht => obtain ⟨m, st, d, -, rfl⟩ := ht; rfl
  | cfg c => simp
  | emptyPulse w => rfl
  | pulse hz w => simp
  | powerOn => exact absurd rfl hon
  | powerOff => exact absurd rfl hoff
  | flush m => simp
  | repair => exact absurd rfl hrep

theorem Answers.channel_eq {i : Instr} {s t : State} (h : Answers s i t) (hpulse : ∀ hi lo w, i ≠ .pulse hi lo w)
    (hflush : ∀ m, i ≠ .flush m) (hrep : i ≠ .repair) : t.slot = s.slot ∧ t.prog = s.prog := by
  cases h with
  | reads hi st d => exact ⟨rfl, rfl⟩
  | draws hi ht => obtain ⟨m, st, d, -, rfl⟩ := ht; exact ⟨rfl, rfl⟩
  | cfg c => simp
  | emptyPulse w => exact ⟨rfl, rfl⟩
  | pulse hz w => exact absurd rfl (hpulse _ _ w)
  | powerOn => simp
  | powerOff => simp
  | flush m => exact absurd rfl (hflush m)
  | repair => exact absurd rfl hrep

/-- The commands that may run a ShiftOut. -/
def shiftsOut : Instr → Bool
  | .enPwr | .enVolt | .enOut | .disOut | .disVolt | .disPwr | .powerOn | .powerOff | .flush _ | .repair => true
  | _ => false

theorem shiftsOut_of_isFramebufferCommand {i : Instr} : isFramebufferCommand i = true → shiftsOut i = false := by
  cases i <;> simp [isFramebufferCommand, shiftsOut]

theorem Answers.intent_eq {i : Instr} {s t : State} (h : Answers s i t) (hi : shiftsOut i = false) :
    t.cfg = s.cfg ∧ t.receiver = s.receiver := by
  cases h with
  | reads hr st d => exact ⟨rfl, rfl⟩
  | draws hw ht => obtain ⟨m, st, d, -, rfl⟩ := ht; exact ⟨rfl, rfl⟩
  | cfg c => cases c <;> cases hi
  | emptyPulse w => exact ⟨rfl, rfl⟩
  | pulse hz w => simp
  | powerOn => cases hi
  | powerOff => cases hi
  | flush m => cases hi
  | repair => cases hi

theorem Answers.fb_eq {i : Instr} {s t : State} (h : Answers s i t) (hi : writesFramebuffer i = false) : t.fb = s.fb := by
  cases h with
  | reads hr st d => rfl
  | draws hw ht => rw [hi] at hw; cases hw
  | cfg c => simp
  | emptyPulse w => rfl
  | pulse hz w => simp
  | powerOn => simp
  | powerOff => simp
  | flush m => simp
  | repair => simp

/-! ### The obligations -/

/-- Settles O11: the transmitter, the bookkeeping of an accepted word and every command keep the invariant. -/
theorem stepKeepsTheInvariant : Obligations.StepKeepsTheInvariant := fun _ _ hinv hstep => hinv.step hstep

/-- Settles O12: what a step appends to the trace is what it does to the lines and the receiver. -/
theorem receiverFollowsTheTrace : Obligations.ReceiverFollowsTheTrace := by
  intro s t r hr hstep
  obtain ⟨l, htrace, hreceiver⟩ := step_grew hstep
  rw [htrace, Receiver.replay_append, hr, hreceiver]

/-- Settles O13, from the same account of a step. -/
theorem traceOnlyGrowsAndParametersStay : Obligations.TraceOnlyGrowsAndParametersStay := by
  intro s t hstep
  obtain ⟨l, htrace, -⟩ := step_grew hstep
  exact ⟨⟨l, htrace.symm⟩, step_env hstep⟩

/-- Settles O15, by the cases of what a command answers. -/
theorem powerStateWrittenByThreeCommands : Obligations.PowerStateWrittenByThreeCommands :=
  fun _ _ _ hon hoff hrep hexec => (exec_answers hexec).pwr_eq hon hoff hrep

/-- Settles O16: none of these commands runs a ShiftOut. -/
theorem intentWrittenByRegisterCommands : Obligations.IntentWrittenByRegisterCommands := by
  intro i s t hi hexec
  have hshift : shiftsOut i = false := by
    obtain hfb | ⟨high, low, w, rfl⟩ | rfl := hi
    · exact shiftsOut_of_isFramebufferCommand hfb
    · rfl
    · rfl
  exact (exec_answers hexec).intent_eq hshift

/-- Settles O17, by the cases of what a command answers. -/
theorem channelWrittenByPulseOnly : Obligations.ChannelWrittenByPulseOnly :=
  fun _ _ _ hpulse hflush hrep hexec => (exec_answers hexec).channel_eq hpulse hflush hrep

/-- Settles O18: a command that draws is one of the five. -/
theorem framebufferWrittenByFiveCommands : Obligations.FramebufferWrittenByFiveCommands := by
  intro i s t hset hfill hclear hrect hdraw hexec
  have hi : writesFramebuffer i = false := by
    cases i with
    | setPixel x y level => exact absurd rfl (hset x y level)
    | fill level => exact absurd rfl (hfill level)
    | clear => exact absurd rfl hclear
    | fillRect x y w h level => exact absurd rfl (hrect x y w h level)
    | drawPixel x y level => exact absurd rfl (hdraw x y level)
    | _ => rfl
  have hfb : t.fb = s.fb := (exec_answers hexec).fb_eq hi
  exact ⟨hfb, fun a => by simp [State.byteAt, hfb]⟩

/-- Settles O9: the reset state evaluated, an unlisted byte being `0xFF`. -/
theorem resetLeavesTheTableValues : Obligations.ResetLeavesTheTableValues :=
  ⟨fun _ _ => rfl, rfl, rfl, rfl, rfl, rfl, rfl, rfl, rfl, rfl, rfl, rfl, rfl, rfl, rfl⟩

/-- Settles O10: nothing is listed in the framebuffer, nothing is played, no channel is held. -/
theorem resetMeetsTheInvariant : Obligations.ResetMeetsTheInvariant where
  fb_wf := Memory.wf_reset
  fb_in_range := nofun
  cfg_reachable := by decide
  slot_tx := nofun
  pls_low _ := rfl
  prog_short := Nat.zero_le 2
  prog_positive := nofun
  tx_of_prog := nofun

end Sys2Proof.Machine
end

section
/-! PROOFS. The memory family (20_memory.md): the nibbles of a byte by the parity of their index, what a nibble write changes,
and that every command answers a next state because every access follows its bounds check. -/

namespace Sys2Proof.Machine

/-! ### The two halves of a byte (20_memory.md R43, R44) -/

theorem nibbleOf_even {idx : Nat} (h : idx % 2 = 0) (b : Byte) : nibbleOf idx b = b.extractLsb' 4 4 := if_pos h

theorem nibbleOf_odd {idx : Nat} (h : idx % 2 = 1) (b : Byte) : nibbleOf idx b = b.extractLsb' 0 4 := if_neg (by omega)

theorem withNibble_even {idx : Nat} (h : idx % 2 = 0) (b : Byte) (v : Nibble) :
    withNibble idx b v = v ++ b.extractLsb' 0 4 := if_pos h

theorem withNibble_odd {idx : Nat} (h : idx % 2 = 1) (b : Byte) (v : Nibble) :
    withNibble idx b v = b.extractLsb' 4 4 ++ v := if_neg (by omega)

/-- The two pixels of a byte differ in parity. -/
theorem xor_one_ne_self (idx : Nat) : idx ^^^ 1 ≠ idx := by
  have hparity : (idx ^^^ 1) % 2 = (idx + 1) % 2 := Nat.xor_mod_two_eq
  omega

/-! ### The framebuffer commands answer a next state (20_memory.md R42; 40_framebuffer_ops.md R80 to R87) -/

theorem State.drawAt_runs {s : State} {x y : Int} (level : BitVec 8) (hin : s.inBounds x y = true) :
    ∃ t, s.drawAt x y level = .next t := by
  rcases s.drawAt_cases level hin with ⟨-, e⟩ | ⟨-, e⟩ <;> exact ⟨_, e⟩

theorem execSetPixel_runs (x y : BitVec 12) (level : BitVec 8) (s : State) : ∃ t, execSetPixel x y level s = .next t := by
  unfold execSetPixel
  split
  next hin => exact State.drawAt_runs level hin
  next => exact ⟨_, rfl⟩

theorem execDrawPixel_runs (x y : BitVec 12) (level : BitVec 8) (s : State) : ∃ t, execDrawPixel x y level s = .next t := by
  unfold execDrawPixel
  split
  next hin => exact State.drawAt_runs level hin
  next => exact ⟨_, rfl⟩

theorem execGetPixel_runs (x y : BitVec 12) (s : State) : ∃ t, execGetPixel x y s = .next t := by
  unfold execGetPixel
  split
  next hin =>
    rw [s.nibRead_ok _ (s.half_pixelIndex_lt hin)]
    exact ⟨_, rfl⟩
  next => exact ⟨_, rfl⟩

theorem execFill_runs (level : BitVec 8) (s : State) : ∃ t, execFill level s = .next t := by
  unfold execFill
  split <;> exact ⟨_, rfl⟩

theorem execFillRect_runs (x y w h : BitVec 12) (level : BitVec 8) (s : State) :
    ∃ t, execFillRect x y w h level s = .next t := by
  unfold execFillRect
  split
  next hin =>
    split
    next =>
      obtain ⟨m, hm, -⟩ := s.nibWriteAll_ok _ (levelNibble level) (s.half_rectPixel_lt hin)
      rw [hm]
      exact ⟨_, rfl⟩
    next => exact ⟨_, rfl⟩
  next => exact ⟨_, rfl⟩

theorem execPulse_runs (high low : BitVec 16) (wait : Bool) (s : State) : ∃ t, execPulse high low wait s = .next t := by
  unfold execPulse
  split <;> exact ⟨_, rfl⟩

/-! ### The obligations -/

/-- Settles O14: every access of a framebuffer command lies behind its bounds check, the two branches of FILL and of PULSE
both answer, and every other command answers a next state without a choice. -/
theorem everyCommandRuns : Obligations.EveryCommandRuns := by
  intro i s
  cases i with
  | setPixel x y level => exact execSetPixel_runs x y level s
  | getPixel x y => exact execGetPixel_runs x y s
  | fill level => exact execFill_runs level s
  | fillRect x y w h level => exact execFillRect_runs x y w h level s
  | drawPixel x y level => exact execDrawPixel_runs x y level s
  | pulse high low wait => exact execPulse_runs high low wait s
  | _ => exact ⟨_, rfl⟩

/-- Settles O22: below `NPIX` the byte exists, and the parity of the index picks the half. -/
theorem nibbleReadPicksItsHalf : Obligations.NibbleReadPicksItsHalf := by
  intro s idx hidx
  rw [s.nibRead_ok idx (s.half_lt_fbBytes hidx)]
  exact ⟨fun h => congrArg Except.ok (nibbleOf_even h _), fun h => congrArg Except.ok (nibbleOf_odd h _)⟩

/-- Settles O23: the next state is `s.withPixel idx v`, whose bytes and pixels are known. -/
theorem nibbleWriteIsExact : Obligations.NibbleWriteIsExact := by
  intro s idx v hidx
  have hbyte : idx / 2 < s.fbBytes := s.half_lt_fbBytes hidx
  have hread : (s.withPixel idx v).nibRead idx = .ok v := by
    rw [(s.withPixel idx v).nibRead_ok idx hbyte, State.pixelAt_withPixel, if_pos rfl]
  have hneighbour : (s.withPixel idx v).pixelAt (idx ^^^ 1) = s.pixelAt (idx ^^^ 1) := by
    rw [State.pixelAt_withPixel, if_neg (xor_one_ne_self idx)]
  exact ⟨s.withPixel idx v, s.nibWrite_ok idx v hbyte, rfl, hread,
    fun h => (s.byteAt_withPixel_self idx v).trans (withNibble_even h _ v),
    fun h => (s.byteAt_withPixel_self idx v).trans (withNibble_odd h _ v),
    hneighbour, fun a ha => s.byteAt_withPixel_other idx a v ha⟩

end Sys2Proof.Machine
end

section
/-! PROOFS. The encoding family (30_encoding.md): a word is the word of a command exactly when its opcode, its reserved bits and
its fields are that command's, so decoding and encoding are inverse; the words that decode to no command are illegal; only three
commands return data. -/

namespace Sys2Proof

/-! ### The opcode of a word (30_encoding.md R61, R67) -/

@[simp] theorem opcodeOfByte_byte (o : Opcode) : opcodeOfByte o.byte = some o := by cases o <;> rfl

theorem mem_allOpcodes (o : Opcode) : o ∈ allOpcodes := by cases o <;> decide

theorem opcodeOfByte_eq_some_iff {b : Byte} {o : Opcode} : opcodeOfByte b = some o ↔ b = o.byte := by
  constructor
  · intro h
    unfold opcodeOfByte at h
    have hbyte := List.find?_some h
    exact (beq_iff_eq.mp hbyte).symm
  · rintro rfl
    exact opcodeOfByte_byte o

theorem opcodeOfByte_eq_none_iff {b : Byte} : opcodeOfByte b = none ↔ ∀ o : Opcode, b ≠ o.byte := by
  rw [Option.eq_none_iff_forall_ne_some]
  exact forall_congr' fun o => not_congr opcodeOfByte_eq_some_iff

/-- Decoding after the opcode is known (R67, R68). -/
theorem decode_of_op {w : Word} {o : Opcode} (h : Word.op w = o.byte) :
    decode w = if w &&& o.reserved = 0#64 then decodeOperands o w else .error .reservedBit := by
  rw [decode, opcodeOfByte_eq_some_iff.mpr h]

theorem decode_of_undefined {w : Word} (h : ∀ o : Opcode, Word.op w ≠ o.byte) : decode w = .error .undefinedOpcode := by
  rw [decode, opcodeOfByte_eq_none_iff.mpr h]

/-- The operands of an opcode make a command of that opcode. -/
theorem decodeOperands_opcode {o : Opcode} {w : Word} {i : Instr} (h : decodeOperands o w = .ok i) : i.opcode = o := by
  cases o with
  | pulse =>
    simp only [decodeOperands] at h
    split at h
    · cases h
    · cases h; rfl
  | flush =>
    simp only [decodeOperands] at h
    split at h
    · cases h; rfl
    · cases h
  | _ => cases h; rfl

/-- A word decodes to `i` when its opcode is that of `i`, its reserved bits are 0 and its operands are those of `i`. -/
theorem decode_eq_ok_iff_parts {w : Word} {i : Instr} :
    decode w = .ok i ↔
      Word.op w = i.opcode.byte ∧ w &&& i.opcode.reserved = 0#64 ∧ decodeOperands i.opcode w = .ok i := by
  constructor
  · intro h
    by_cases hdef : ∃ o : Opcode, Word.op w = o.byte
    · obtain ⟨o, ho⟩ := hdef
      rw [decode_of_op ho] at h
      split at h
      next hres =>
        obtain rfl := decodeOperands_opcode h
        exact ⟨ho, hres, h⟩
      next => cases h
    · rw [decode_of_undefined (not_exists.mp hdef)] at h
      cases h
  · rintro ⟨hop, hres, hoperands⟩
    rw [decode_of_op hop, if_pos hres, hoperands]

/-! ### When a word is the word of a format (30_encoding.md R62 to R65)

As numbers: the fields and the block of reserved bits are the digits of the word's number in a mixed base. -/

theorem encodeG_eq_iff {o : Opcode} {x y w h : BitVec 12} {level : BitVec 8} {v : Word} :
    encodeG o x y w h level = v ↔
      Word.op v = o.byte ∧ Word.x v = x ∧ Word.y v = y ∧ Word.w v = w ∧ Word.h v = h ∧ Word.level v = level := by
  have := o.byte.isLt; have := x.isLt; have := y.isLt; have := w.isLt; have := h.isLt; have := level.isLt
  have := v.isLt
  simp only [← BitVec.toNat_inj, encodeG_toNat, Word.op, Word.x, Word.y, Word.w, Word.h, Word.level, field_toNat]
  omega

theorem encodeT_eq_iff {o : Opcode} {high low : BitVec 16} {wait : Bool} {v : Word} :
    encodeT o high low wait = v ↔
      Word.op v = o.byte ∧ v &&& 0x00000000007FFFFF#64 = 0#64 ∧ Word.high v = high ∧ Word.low v = low ∧
        Word.wait v = wait := by
  have := o.byte.isLt; have := high.isLt; have := low.isLt; have := wait.toNat_lt
  have := v.isLt
  have hwait : Word.wait v = wait ↔ v.toNat / 2 ^ 23 % 2 = wait.toNat := by
    rw [Word.wait, BitVec.getLsbD, Nat.testBit_eq_decide_div_mod_eq]
    cases wait <;> simp
  rw [masked_eq_zero v 0 23 _ (by decide) (by decide), hwait]
  simp only [← BitVec.toNat_inj, encodeT_toNat, Word.op, Word.high, Word.low, field_toNat]
  omega

theorem encodeM_eq_iff {o : Opcode} {mode : BitVec 2} {v : Word} :
    encodeM o mode = v ↔ Word.op v = o.byte ∧ v &&& 0x00FFFFFFFFFFFFFC#64 = 0#64 ∧ Word.mode v = mode := by
  have := o.byte.isLt; have := mode.isLt
  have := v.isLt
  rw [masked_eq_zero v 2 54 _ (by decide) (by decide)]
  simp only [← BitVec.toNat_inj, encodeM_toNat, Word.op, Word.mode, field_toNat]
  omega

theorem encodeN_eq_iff {o : Opcode} {v : Word} :
    encodeN o = v ↔ Word.op v = o.byte ∧ v &&& 0x00FFFFFFFFFFFFFF#64 = 0#64 := by
  have := o.byte.isLt
  have := v.isLt
  rw [masked_eq_zero v 0 56 _ (by decide) (by decide)]
  simp only [← BitVec.toNat_inj, encodeN_toNat, Word.op, field_toNat]
  omega

/-! ### The reserved bits of format G are whole fields (30_encoding.md R68) -/

theorem reserved_setPixel_iff {v : Word} :
    v &&& 0x00000000FFFFFF00#64 = 0#64 ↔ Word.w v = 0#12 ∧ Word.h v = 0#12 := by
  rw [masked_eq_zero v 8 24 _ (by decide) (by decide)]
  simp only [← BitVec.toNat_inj, Word.w, Word.h, field_toNat, BitVec.toNat_zero]
  omega

theorem reserved_getPixel_iff {v : Word} :
    v &&& 0x00000000FFFFFFFF#64 = 0#64 ↔ Word.w v = 0#12 ∧ Word.h v = 0#12 ∧ Word.level v = 0#8 := by
  rw [masked_eq_zero v 0 32 _ (by decide) (by decide)]
  simp only [← BitVec.toNat_inj, Word.w, Word.h, Word.level, field_toNat, BitVec.toNat_zero]
  omega

theorem reserved_fill_iff {v : Word} :
    v &&& 0x00FFFFFFFFFFFF00#64 = 0#64 ↔
      Word.x v = 0#12 ∧ Word.y v = 0#12 ∧ Word.w v = 0#12 ∧ Word.h v = 0#12 := by
  rw [masked_eq_zero v 8 48 _ (by decide) (by decide)]
  simp only [← BitVec.toNat_inj, Word.x, Word.y, Word.w, Word.h, field_toNat, BitVec.toNat_zero]
  omega

/-! ### Decoding and encoding are inverse (30_encoding.md R61, R70, R71) -/

theorem drawModeOfBits_eq_some_iff {b : BitVec 2} {m : DrawMode} : drawModeOfBits b = some m ↔ b = m.bits := by
  revert b
  cases m <;> decide

theorem decodeOperands_pulse_iff {w : Word} {high low : BitVec 16} {wait : Bool} :
    decodeOperands .pulse w = .ok (.pulse high low wait) ↔
      (Word.high w = high ∧ Word.low w = low ∧ Word.wait w = wait) ∧ ¬(high = 0#16 ∧ low = 0#16) := by
  simp only [decodeOperands]
  split
  next hzero => exact ⟨nofun, fun ⟨⟨hhigh, hlow, _⟩, hne⟩ => absurd (hhigh ▸ hlow ▸ hzero) hne⟩
  next hne =>
    simp only [Except.ok.injEq, Instr.pulse.injEq]
    exact ⟨fun h => ⟨h, h.1 ▸ h.2.1 ▸ hne⟩, And.left⟩

theorem decodeOperands_flush_iff {w : Word} {m : DrawMode} :
    decodeOperands .flush w = .ok (.flush m) ↔ Word.mode w = m.bits := by
  rw [← drawModeOfBits_eq_some_iff]
  simp only [decodeOperands]
  split
  next h => simp [h]
  next h => simp [h]

theorem pulse_wellFormed_iff (high low : BitVec 16) (wait : Bool) :
    ¬(high = 0#16 ∧ low = 0#16) ↔ (Instr.pulse high low wait).WellFormed := by
  simp [Instr.WellFormed, Instr.wf, imp_iff_not_or]

/-- A word decodes to a command exactly when the command is well-formed and the word is its word. -/
theorem decode_eq_ok_iff {w : Word} {i : Instr} : decode w = .ok i ↔ encode i = w ∧ i.WellFormed := by
  rw [decode_eq_ok_iff_parts]
  cases i with
  | setPixel x y level | drawPixel x y level =>
    simp only [Instr.opcode, Opcode.reserved, reserved_setPixel_iff, decodeOperands, encode, encodeG_eq_iff,
      Instr.WellFormed, Instr.wf, Except.ok.injEq, Instr.setPixel.injEq, Instr.drawPixel.injEq]
    tauto
  | getPixel x y =>
    simp only [Instr.opcode, Opcode.reserved, reserved_getPixel_iff, decodeOperands, encode, encodeG_eq_iff,
      Instr.WellFormed, Instr.wf, Except.ok.injEq, Instr.getPixel.injEq]
    tauto
  | fill level =>
    simp only [Instr.opcode, Opcode.reserved, reserved_fill_iff, decodeOperands, encode, encodeG_eq_iff,
      Instr.WellFormed, Instr.wf, Except.ok.injEq, Instr.fill.injEq]
    tauto
  | fillRect x y w h level =>
    simp [Instr.opcode, Opcode.reserved, decodeOperands, encode, encodeG_eq_iff, Instr.WellFormed, Instr.wf]
  | pulse high low wait =>
    rw [Instr.opcode, decodeOperands_pulse_iff, encode, encodeT_eq_iff, ← pulse_wellFormed_iff high low wait]
    simp only [Opcode.reserved, and_assoc]
  | flush m =>
    simp [Instr.opcode, Opcode.reserved, decodeOperands_flush_iff, encode, encodeM_eq_iff, Instr.WellFormed, Instr.wf]
  | _ => simp [Instr.opcode, Opcode.reserved, decodeOperands, encode, encodeN_eq_iff, Instr.WellFormed, Instr.wf]

/-! ### Words that decode to no command (30_encoding.md R68 to R70) -/

theorem decode_of_reservedBit {w : Word} {o : Opcode} (hop : Word.op w = o.byte) (hres : w &&& o.reserved ≠ 0#64) :
    decode w = .error .reservedBit := by
  rw [decode_of_op hop, if_neg hres]

/-- Whatever its reserved bits are, a word whose operands are refused decodes to no command. -/
theorem decode_of_refused_operands {w : Word} {o : Opcode} {e : DecodeError} (hop : Word.op w = o.byte)
    (hoperands : decodeOperands o w = .error e) : ∃ e', decode w = .error e' := by
  rw [decode_of_op hop, hoperands]
  split <;> exact ⟨_, rfl⟩

theorem decodeOperands_flush_of_three {w : Word} (h : Word.mode w = 3#2) :
    decodeOperands .flush w = .error .reservedOperand := by
  simp [decodeOperands, h, drawModeOfBits]

theorem decodeOperands_pulse_of_zero {w : Word} (hhigh : Word.high w = 0#16) (hlow : Word.low w = 0#16) :
    decodeOperands .pulse w = .error .reservedOperand := if_pos ⟨hhigh, hlow⟩

end Sys2Proof

namespace Sys2Proof.Machine

/-- The literals of R67 and R68 are the decoder's. -/
theorem reservedBits_eq_map : reservedBits = allOpcodes.map (fun o => (o.byte, o.reserved)) := rfl

theorem mem_reservedBits_iff {p : Byte × Word} : p ∈ reservedBits ↔ ∃ o : Opcode, p = (o.byte, o.reserved) := by
  simp [reservedBits_eq_map, mem_allOpcodes, eq_comm]

theorem execWord_of_ok {w : Word} {i : Instr} (h : decode w = .ok i) (s : State) : execWord w s = exec i s := by
  rw [execWord, h]

theorem execWord_of_error {w : Word} {e : DecodeError} (h : decode w = .error e) (s : State) :
    execWord w s = .next s.illegal := by
  rw [execWord, h]
  rfl

theorem State.illegal_response (s : State) : s.illegal.response = 0x0700000000000000#64 := by
  show ErrKind.illegalCommand.code ++ 0#56 = _
  decide

theorem step_of_presented {s : State} {w : Word} {rest : List Word} (hheld : s.held = false)
    (hword : s.commands = w :: rest) : step s = execWord w (s.accept rest) := by
  rw [step, hheld, hword]

/-! ### The data of a response (30_encoding.md R66; 60_exceptions.md R168) -/

theorem State.drawAt_rdata {s t : State} {x y : Int} {level : BitVec 8} (hin : s.inBounds x y = true)
    (h : s.drawAt x y level = .next t) : t.rdata = 0#56 := by
  rcases s.drawAt_cases level hin with ⟨-, e⟩ | ⟨-, e⟩ <;> rw [e] at h <;> exact Host.Outcome.next.inj h ▸ rfl

theorem completed_rdata {r : Except Fault State} {t : State} (h : completed r = .next t) : t.rdata = 0#56 := by
  cases r with
  | ok u => exact Host.Outcome.next.inj h ▸ rfl
  | error f => cases h

theorem execSetPixel_rdata {s t : State} {x y : BitVec 12} {level : BitVec 8} (h : execSetPixel x y level s = .next t) :
    t.rdata = 0#56 := by
  unfold execSetPixel at h
  split at h
  next hin => exact State.drawAt_rdata hin h
  next => exact Host.Outcome.next.inj h ▸ rfl

theorem execDrawPixel_rdata {s t : State} {x y : BitVec 12} {level : BitVec 8} (h : execDrawPixel x y level s = .next t) :
    t.rdata = 0#56 := by
  unfold execDrawPixel at h
  split at h
  next hin => exact State.drawAt_rdata hin h
  next => exact Host.Outcome.next.inj h ▸ rfl

theorem execFill_rdata {s t : State} {level : BitVec 8} (h : execFill level s = .next t) : t.rdata = 0#56 := by
  unfold execFill at h
  split at h <;> exact Host.Outcome.next.inj h ▸ rfl

theorem execFillRect_rdata {s t : State} {x y w h : BitVec 12} {level : BitVec 8}
    (he : execFillRect x y w h level s = .next t) : t.rdata = 0#56 := by
  unfold execFillRect at he
  split at he
  next =>
    split at he
    next => exact completed_rdata he
    next => exact Host.Outcome.next.inj he ▸ rfl
  next => exact Host.Outcome.next.inj he ▸ rfl

theorem execGetPixel_rdata {s t : State} {x y : BitVec 12} (h : execGetPixel x y s = .next t) (hstatus : t.status ≠ .ok) :
    t.rdata = 0#56 := by
  unfold execGetPixel at h
  split at h
  next =>
    split at h
    next => obtain rfl := Host.Outcome.next.inj h; exact absurd rfl hstatus
    next => cases h
  next => exact Host.Outcome.next.inj h ▸ rfl

/-- A command that writes the framebuffer returns no data. -/
theorem exec_rdata_of_writesFramebuffer {i : Instr} {s t : State} (hi : writesFramebuffer i = true)
    (h : exec i s = .next t) : t.rdata = 0#56 := by
  cases i with
  | setPixel x y level => exact execSetPixel_rdata h
  | fill level => exact execFill_rdata h
  | clear => exact Host.Outcome.next.inj h ▸ rfl
  | fillRect x y w h' level => exact execFillRect_rdata h
  | drawPixel x y level => exact execDrawPixel_rdata h
  | _ => cases hi

/-- A command that only reads returns no data where its status is not `OK`; of the three, only GET_PIXEL can fail. -/
theorem exec_rdata_of_onlyReads {i : Instr} {s t : State} (hi : onlyReads i = true) (h : exec i s = .next t)
    (hstatus : t.status ≠ .ok) : t.rdata = 0#56 := by
  cases i with
  | getPixel x y => exact execGetPixel_rdata h hstatus
  | bbox => obtain rfl := Host.Outcome.next.inj h; exact absurd rfl hstatus
  | stat => obtain rfl := Host.Outcome.next.inj h; exact absurd rfl hstatus
  | _ => cases hi

theorem onlyReads_eq_false {i : Instr} (hget : ∀ x y, i ≠ .getPixel x y) (hbbox : i ≠ .bbox) (hstat : i ≠ .stat) :
    onlyReads i = false := by
  cases i with
  | getPixel x y => exact absurd rfl (hget x y)
  | bbox => exact absurd rfl hbbox
  | stat => exact absurd rfl hstat
  | _ => rfl

/-- A run of hardware steps that is not held returns no data. -/
theorem Run.finish_rdata {r : Run} (h : r.finish.held = false) : r.finish.rdata = 0#56 := by
  rcases r.finish_cases with ⟨-, e⟩ | ⟨k, -, e⟩ | ⟨-, e⟩ <;> rw [e] at h ⊢
  · rfl
  · rfl
  · cases h

/-! ### The obligations -/

/-- Settles O1: the word of `i` decodes to `i`, as it is the word of `i`. -/
theorem decodeOfEncode : Obligations.DecodeOfEncode := fun _ hwf => decode_eq_ok_iff.mpr ⟨rfl, hwf⟩

/-- Settles O2, the other direction of the same equivalence. -/
theorem encodeOfDecode : Obligations.EncodeOfDecode := fun _ _ h => decode_eq_ok_iff.mp h

/-- Settles O3: the 19 literals are the opcode bytes of the decoder, so no opcode is found. -/
theorem undefinedOpcodeIsIllegal : Obligations.UndefinedOpcodeIsIllegal := by
  intro w s hop
  have hundefined : decode w = .error .undefinedOpcode :=
    decode_of_undefined fun o => hop _ (mem_reservedBits_iff.mpr ⟨o, rfl⟩)
  exact ⟨execWord_of_error hundefined s, s.illegal_response⟩

/-- Settles O4: the literal masks are the masks of the decoder. -/
theorem reservedBitIsIllegal : Obligations.ReservedBitIsIllegal := by
  intro w s p hp hop hres
  obtain ⟨o, rfl⟩ := mem_reservedBits_iff.mp hp
  exact ⟨execWord_of_error (decode_of_reservedBit hop hres) s, s.illegal_response⟩

/-- Settles O5: the operands of such a word are refused, if its reserved bits are not refused before them. -/
theorem reservedOperandIsIllegal : Obligations.ReservedOperandIsIllegal := by
  intro w s h
  have hrefused : ∃ e, decode w = .error e := by
    rcases h with ⟨hop, hmode⟩ | ⟨hop, hhigh, hlow⟩
    · exact decode_of_refused_operands (o := .flush) hop (decodeOperands_flush_of_three hmode)
    · exact decode_of_refused_operands (o := .pulse) hop (decodeOperands_pulse_of_zero hhigh hlow)
  obtain ⟨e, he⟩ := hrefused
  exact ⟨execWord_of_error he s, s.illegal_response⟩

/-- Settles O19, by the cases of what a command answers. -/
theorem onlyReadingCommandsReturnData : Obligations.OnlyReadingCommandsReturnData := by
  intro i s t hexec hheld hcase
  cases exec_answers hexec with
  | reads hi st d =>
    rcases hcase with hstatus | ⟨hget, hbbox, hstat⟩
    · exact exec_rdata_of_onlyReads hi hexec hstatus
    · rw [onlyReads_eq_false hget hbbox hstat] at hi
      cases hi
  | draws hi ht => exact exec_rdata_of_writesFramebuffer hi hexec
  | emptyPulse w => rfl
  | _ => exact Run.finish_rdata hheld

/-- Settles O6: the nine words evaluated. -/
theorem handWrittenWordsDecode : Obligations.HandWrittenWordsDecode := by
  unfold Obligations.HandWrittenWordsDecode
  decide

/-- Settles O7: a step is `execWord` on the accepted state, and accepting is one scheduling point. -/
theorem stepRunsTheDecodedCommand : Obligations.StepRunsTheDecodedCommand := by
  intro s w rest hheld hword
  have hstep := step_of_presented hheld hword
  exact ⟨hstep, fun i hi => hstep.trans (execWord_of_ok hi _), fun e he => hstep.trans (execWord_of_error he _),
    State.yield_spec _, fun hidle => State.yield_of_idle hidle⟩

end Sys2Proof.Machine
end

section
/-! PROOFS. The framebuffer family (40_framebuffer_ops.md): what each framebuffer command answers on each branch of its checks,
that the answer comes from `FB` and the parameters alone, and what a drawing stream leaves in each pixel. -/

namespace Sys2Proof.Machine

/-! ### Levels and packed data (30_encoding.md R64, R66; 40_framebuffer_ops.md R82, R89) -/

theorem levelNibble_eq_setWidth (level : BitVec 8) : levelNibble level = level.setWidth 4 :=
  (BitVec.setWidth_eq_extractLsb' (by decide)).symm

theorem levelNibble_toNat {level : BitVec 8} (hl : level.toNat ≤ 15) : (levelNibble level).toNat = level.toNat := by
  rw [levelNibble_eq_setWidth, BitVec.toNat_setWidth]
  omega

theorem packedLevel_toNat {level : BitVec 8} (hl : level.toNat ≤ 15) : (packedLevel level).toNat = level.toNat * 0x11 := by
  rw [packedLevel, append_toNat, levelNibble_toNat hl]
  omega

theorem pixelData_eq_setWidth (v : Nibble) : pixelData v = v.setWidth 56 := by
  apply BitVec.eq_of_toNat_eq
  rw [pixelData, append_toNat, BitVec.toNat_setWidth, BitVec.toNat_ofNat]
  have := v.isLt
  omega

theorem State.width_lt (s : State) : s.width < 2 ^ 12 := Nat.lt_of_le_of_lt s.env.geom.width_le (by decide)

theorem State.height_lt (s : State) : s.height < 2 ^ 12 := Nat.lt_of_le_of_lt s.env.geom.height_le (by decide)

theorem State.bboxData_toNat (s : State) : s.bboxData.toNat = s.width * 2 ^ 12 + s.height := by
  have := s.width_lt
  have := s.height_lt
  have horigin : (0#8 ++ 0#12 ++ 0#12).toNat = 0 := rfl
  rw [State.bboxData, append_toNat, append_toNat, horigin, BitVec.toNat_ofNat, BitVec.toNat_ofNat]
  omega

theorem dimensionsOf_bboxData (s : State) : dimensionsOf s.bboxData = (s.width, s.height) := by
  have := s.width_lt
  have := s.height_lt
  simp only [dimensionsOf, BitVec.extractLsb'_toNat, Nat.shiftRight_eq_div_pow, s.bboxData_toNat, Prod.mk.injEq]
  omega

/-! ### The answer on each branch of the checks (40_framebuffer_ops.md R80 to R85) -/

theorem State.inBounds_congr {s t : State} (henv : t.env = s.env) (x y : Int) : t.inBounds x y = s.inBounds x y := by
  rw [State.inBounds, State.width, State.height, henv]
  rfl

theorem State.not_inBounds_unsigned {s : State} {x y : BitVec 12} (h : s.width ≤ x.toNat ∨ s.height ≤ y.toNat) :
    ¬ s.inBounds (unsignedCoord x) (unsignedCoord y) = true := by
  rw [State.inBounds_unsigned]
  omega

theorem State.not_rectInBounds {s : State} {x y w h : BitVec 12}
    (hout : s.width < x.toNat + w.toNat ∨ s.height < y.toNat + h.toNat) : ¬ s.rectInBounds x y w h = true := by
  rw [State.rectInBounds_iff]
  omega

theorem not_levelOk {level : BitVec 8} (hl : 15 < level.toNat) : ¬ levelOk level = true := by
  rw [levelOk_iff]
  omega

theorem State.drawAt_of_gray {s : State} {x y : Int} {level : BitVec 8} (hin : s.inBounds x y = true)
    (hl : level.toNat ≤ 15) :
    s.drawAt x y level = .next ((s.withPixel (s.pixelIndex x y) (levelNibble level)).respond .ok 0#56) := by
  rcases s.drawAt_cases level hin with ⟨-, e⟩ | ⟨hbad, -⟩
  · exact e
  · omega

theorem State.drawAt_of_bad {s : State} {x y : Int} {level : BitVec 8} (hl : 15 < level.toNat) :
    s.drawAt x y level = .next (s.raise .invalidColor) := if_neg (not_levelOk hl)

/-- What SET_PIXEL and DRAW_PIXEL have in common where both checks pass: one pixel is written. -/
theorem State.drawAt_writes_pixel {s : State} {x y : Int} {level : BitVec 8} (hin : s.inBounds x y = true)
    (hl : level.toNat ≤ 15) :
    ∃ t, s.drawAt x y level = .next t ∧ t = { s with fb := t.fb, status := .ok, rdata := 0#56 } ∧
      t.pixelAt (s.pixelIndex x y) = levelNibble level ∧
      (∀ j, j ≠ s.pixelIndex x y → t.pixelAt j = s.pixelAt j) ∧
      ∀ a, a ≠ s.pixelIndex x y / 2 → t.byteAt a = s.byteAt a := by
  have hpixel := s.pixelAt_withPixel (s.pixelIndex x y) (v := levelNibble level)
  exact ⟨_, State.drawAt_of_gray hin hl, rfl, (hpixel _).trans (if_pos rfl), fun j hj => (hpixel j).trans (if_neg hj),
    fun a ha => s.byteAt_withPixel_other _ a _ ha⟩

theorem execSetPixel_of_inBounds {s : State} {x y : BitVec 12} {level : BitVec 8}
    (hin : s.inBounds (unsignedCoord x) (unsignedCoord y) = true) :
    execSetPixel x y level s = s.drawAt (unsignedCoord x) (unsignedCoord y) level := if_pos hin

theorem execSetPixel_of_outside {s : State} {x y : BitVec 12} {level : BitVec 8}
    (hout : ¬ s.inBounds (unsignedCoord x) (unsignedCoord y) = true) :
    execSetPixel x y level s = .next (s.raise .outOfBounds) := if_neg hout

theorem execDrawPixel_of_inBounds {s : State} {x y : BitVec 12} {level : BitVec 8}
    (hin : s.inBounds (signedCoord x) (signedCoord y) = true) :
    execDrawPixel x y level s = s.drawAt (signedCoord x) (signedCoord y) level := if_pos hin

theorem execDrawPixel_of_outside {s : State} {x y : BitVec 12} {level : BitVec 8}
    (hout : ¬ s.inBounds (signedCoord x) (signedCoord y) = true) :
    execDrawPixel x y level s = .next (s.respond .ok 0#56) := if_neg hout

theorem execGetPixel_of_inBounds {s : State} {x y : BitVec 12}
    (hin : s.inBounds (unsignedCoord x) (unsignedCoord y) = true) :
    execGetPixel x y s =
      .next (s.respond .ok (pixelData (s.pixelAt (s.pixelIndex (unsignedCoord x) (unsignedCoord y))))) := by
  rw [execGetPixel, if_pos hin, s.nibRead_ok _ (s.half_pixelIndex_lt hin)]

theorem execGetPixel_of_outside {s : State} {x y : BitVec 12}
    (hout : ¬ s.inBounds (unsignedCoord x) (unsignedCoord y) = true) :
    execGetPixel x y s = .next (s.raise .outOfBounds) := if_neg hout

theorem execFill_of_gray {level : BitVec 8} (hl : level.toNat ≤ 15) (s : State) :
    execFill level s = .next ((s.fillBytes (packedLevel level)).respond .ok 0#56) := if_pos ((levelOk_iff level).2 hl)

theorem execFill_of_bad {level : BitVec 8} (hl : 15 < level.toNat) (s : State) :
    execFill level s = .next (s.raise .invalidColor) := if_neg (not_levelOk hl)

theorem execFillRect_of_gray {s : State} {x y w h : BitVec 12} {level : BitVec 8} (hin : s.rectInBounds x y w h = true)
    (hl : level.toNat ≤ 15) :
    execFillRect x y w h level s = completed (s.nibWriteAll (s.rectPixels x y w h) (levelNibble level)) :=
  (if_pos hin).trans (if_pos ((levelOk_iff level).2 hl))

theorem execFillRect_of_bad {s : State} {x y w h : BitVec 12} {level : BitVec 8} (hin : s.rectInBounds x y w h = true)
    (hl : 15 < level.toNat) : execFillRect x y w h level s = .next (s.raise .invalidColor) :=
  (if_pos hin).trans (if_neg (not_levelOk hl))

theorem execFillRect_of_outside {s : State} {x y w h : BitVec 12} {level : BitVec 8}
    (hout : ¬ s.rectInBounds x y w h = true) : execFillRect x y w h level s = .next (s.raise .outOfBounds) := if_neg hout

/-! ### The answer comes from `FB` and the parameters alone (40_framebuffer_ops.md R88) -/

/-- `u` with the parameters and the framebuffer of `s`. -/
def State.withMemoryOf (u s : State) : State := { u with env := s.env, fb := s.fb }

theorem State.withMemoryOf_eq_self {u s : State} (henv : u.env = s.env) (hfb : u.fb = s.fb) : u.withMemoryOf s = u := by
  rw [State.withMemoryOf, ← henv, ← hfb]

/-- In every state with the parameters and the framebuffer of `s`, `f` leaves the same framebuffer, which is that of `s` if the
status is an error, gives the same response, and changes nothing else. -/
def AnswersFromMemory (f : State → Result) (s : State) : Prop :=
  ∃ m st d, (st ≠ .ok → m = s.fb) ∧
    ∀ u : State, f (u.withMemoryOf s) = .next (({ u.withMemoryOf s with fb := m } : State).respond st d)

theorem AnswersFromMemory.of_eq {f g : State → Result} {s : State} (hg : AnswersFromMemory g s)
    (h : ∀ u : State, f (u.withMemoryOf s) = g (u.withMemoryOf s)) : AnswersFromMemory f s := by
  obtain ⟨m, st, d, hfb, hanswer⟩ := hg
  exact ⟨m, st, d, hfb, fun u => (h u).trans (hanswer u)⟩

theorem AnswersFromMemory.of_respond {f : State → Result} {s : State} (st : Status) (d : BitVec 56)
    (h : ∀ u : State, f (u.withMemoryOf s) = .next ((u.withMemoryOf s).respond st d)) : AnswersFromMemory f s :=
  ⟨s.fb, st, d, fun _ => rfl, h⟩

theorem AnswersFromMemory.of_write {f : State → Result} {s : State} (m : Memory)
    (h : ∀ u : State, f (u.withMemoryOf s) = .next (({ u.withMemoryOf s with fb := m } : State).respond .ok 0#56)) :
    AnswersFromMemory f s := ⟨m, .ok, 0#56, fun hne => absurd rfl hne, h⟩

theorem State.drawAt_answersFromMemory {s : State} {x y : Int} (hin : s.inBounds x y = true) (level : BitVec 8) :
    AnswersFromMemory (fun u => u.drawAt x y level) s := by
  by_cases hl : level.toNat ≤ 15
  · exact .of_write (s.withPixel (s.pixelIndex x y) (levelNibble level)).fb
      fun u => State.drawAt_of_gray (s := u.withMemoryOf s) hin hl
  · exact .of_respond _ _ fun u => State.drawAt_of_bad (by omega)

theorem execSetPixel_answersFromMemory (x y : BitVec 12) (level : BitVec 8) (s : State) :
    AnswersFromMemory (execSetPixel x y level) s := by
  by_cases hin : s.inBounds (unsignedCoord x) (unsignedCoord y) = true
  · exact (State.drawAt_answersFromMemory hin level).of_eq fun u => execSetPixel_of_inBounds (s := u.withMemoryOf s) hin
  · exact .of_respond _ _ fun u => execSetPixel_of_outside (s := u.withMemoryOf s) hin

theorem execDrawPixel_answersFromMemory (x y : BitVec 12) (level : BitVec 8) (s : State) :
    AnswersFromMemory (execDrawPixel x y level) s := by
  by_cases hin : s.inBounds (signedCoord x) (signedCoord y) = true
  · exact (State.drawAt_answersFromMemory hin level).of_eq fun u => execDrawPixel_of_inBounds (s := u.withMemoryOf s) hin
  · exact .of_respond _ _ fun u => execDrawPixel_of_outside (s := u.withMemoryOf s) hin

theorem execGetPixel_answersFromMemory (x y : BitVec 12) (s : State) : AnswersFromMemory (execGetPixel x y) s := by
  by_cases hin : s.inBounds (unsignedCoord x) (unsignedCoord y) = true
  · exact .of_respond .ok (pixelData (s.pixelAt (s.pixelIndex (unsignedCoord x) (unsignedCoord y))))
      fun u => execGetPixel_of_inBounds (s := u.withMemoryOf s) hin
  · exact .of_respond _ _ fun u => execGetPixel_of_outside (s := u.withMemoryOf s) hin

theorem execFill_answersFromMemory (level : BitVec 8) (s : State) : AnswersFromMemory (execFill level) s := by
  by_cases hl : level.toNat ≤ 15
  · exact .of_write (s.fillBytes (packedLevel level)).fb fun u => execFill_of_gray hl _
  · exact .of_respond _ _ fun u => execFill_of_bad (by omega) _

/-- A list of nibble writes that all have their byte leaves the same contents whatever the rest of the state holds. -/
theorem State.nibWriteAll_withMemoryOf (s : State) (l : List Nat) (v : Nibble) (h : ∀ i ∈ l, i / 2 < s.fbBytes) :
    ∃ m : Memory, ∀ u : State, (u.withMemoryOf s).nibWriteAll l v = .ok { u.withMemoryOf s with fb := m } := by
  induction l generalizing s with
  | nil => exact ⟨s.fb, fun u => rfl⟩
  | cons i rest ih =>
    obtain ⟨m, hm⟩ := ih (s.withPixel i v) fun j hj => h j (List.mem_cons_of_mem i hj)
    refine ⟨m, fun u => ?_⟩
    rw [State.nibWriteAll, State.nibWrite_ok (u.withMemoryOf s) i v (h i List.mem_cons_self)]
    exact hm u

theorem execFillRect_answersFromMemory (x y w h : BitVec 12) (level : BitVec 8) (s : State) :
    AnswersFromMemory (execFillRect x y w h level) s := by
  by_cases hin : s.rectInBounds x y w h = true
  · by_cases hl : level.toNat ≤ 15
    · obtain ⟨m, hm⟩ := s.nibWriteAll_withMemoryOf _ (levelNibble level) (s.half_rectPixel_lt hin)
      exact .of_write m fun u =>
        (execFillRect_of_gray (s := u.withMemoryOf s) hin hl).trans (congrArg completed (hm u))
    · exact .of_respond _ _ fun u => execFillRect_of_bad (s := u.withMemoryOf s) hin (by omega)
  · exact .of_respond _ _ fun u => execFillRect_of_outside (s := u.withMemoryOf s) hin

theorem exec_answersFromMemory {i : Instr} (hi : isFramebufferCommand i = true) (s : State) :
    AnswersFromMemory (exec i) s := by
  cases i with
  | setPixel x y level => exact execSetPixel_answersFromMemory x y level s
  | getPixel x y => exact execGetPixel_answersFromMemory x y s
  | fill level => exact execFill_answersFromMemory level s
  | clear => exact .of_write (s.fillBytes 0xFF#8).fb fun u => rfl
  | fillRect x y w h level => exact execFillRect_answersFromMemory x y w h level s
  | drawPixel x y level => exact execDrawPixel_answersFromMemory x y level s
  | bbox => exact .of_respond .ok s.bboxData fun u => rfl
  | _ => cases hi

/-- The same said of the states `u` with the memory of `s`, `s` itself among them. -/
theorem exec_eq_of_same_memory {i : Instr} (hi : isFramebufferCommand i = true) (s : State) :
    ∃ m st d, (st ≠ .ok → m = s.fb) ∧ ∀ u : State, u.env = s.env → u.fb = s.fb →
      exec i u = .next (({ u with fb := m } : State).respond st d) := by
  obtain ⟨m, st, d, hfb, hanswer⟩ := exec_answersFromMemory hi s
  exact ⟨m, st, d, hfb, fun u henv hmem => State.withMemoryOf_eq_self henv hmem ▸ hanswer u⟩

/-- The transmitter neither reads nor writes what a framebuffer command writes. -/
theorem State.txStep_respond_withFb (s : State) (m : Memory) (st : Status) (d : BitVec 56) :
    (({ s with fb := m } : State).respond st d).txStep = ({ s.txStep with fb := m } : State).respond st d := by
  obtain ⟨env, commands, held, faultIx, txIx, fb, cfg, pwr, slot, tx, prog⟩ := s
  cases tx with
  | idle => rfl
  | running rest => cases rest <;> rfl

/-! ### A drawing stream (40_framebuffer_ops.md R86) -/

/-- A list of commands that all respond `OK` hands its end state to the commands after it. -/
theorem issueAll_append_of_ok {l l' : List Instr} {s t : State} (h : issueAll l s = .next (t, .ok)) :
    issueAll (l ++ l') s = issueAll l' t := by
  induction l generalizing s with
  | nil => cases h; rfl
  | cons i rest ih =>
    rw [issueAll] at h
    rw [List.cons_append, issueAll]
    split at h
    next u hu =>
      split at h
      next hok => exact (if_pos hok).trans (ih h)
      next hbad => exact absurd (congrArg Prod.snd (Host.Outcome.next.inj h)) hbad
    next => cases h
    next => cases h

theorem streamPixel_singleton_of_inBounds {s : State} {x y : BitVec 12}
    (hin : s.inBounds (signedCoord x) (signedCoord y) = true) (level : BitVec 8) (j : Nat) (v : Nibble) :
    streamPixel s.env.geom j [(x, y, level)] v =
      if j = s.pixelIndex (signedCoord x) (signedCoord y) then levelNibble level else v := by
  obtain ⟨hx0, hx, hy0, hy⟩ := (s.inBounds_signed x y).mp hin
  rw [levelNibble_eq_setWidth]
  refine if_congr ⟨?_, fun hj => ⟨hx0, hx, hy0, hy, hj.symm⟩⟩ rfl rfl
  rintro ⟨-, -, -, -, hj⟩
  exact hj.symm

theorem streamPixel_singleton_of_outside {s : State} {x y : BitVec 12}
    (hout : ¬ s.inBounds (signedCoord x) (signedCoord y) = true) (level : BitVec 8) (j : Nat) (v : Nibble) :
    streamPixel s.env.geom j [(x, y, level)] v = v := by
  rw [State.inBounds_signed] at hout
  refine if_neg ?_
  rintro ⟨hx0, hx, hy0, hy, -⟩
  exact hout ⟨hx0, hx, hy0, hy⟩

/-- A pair with a gray level responds `OK` and does to each pixel what a stream of this one pair does (R85). -/
theorem execDrawPixel_of_gray {level : BitVec 8} (hl : level.toNat ≤ 15) (x y : BitVec 12) (s : State) :
    ∃ t, execDrawPixel x y level s = .next t ∧ t.status = .ok ∧ t.env = s.env ∧
      ∀ j, t.pixelAt j = streamPixel s.env.geom j [(x, y, level)] (s.pixelAt j) := by
  by_cases hin : s.inBounds (signedCoord x) (signedCoord y) = true
  · exact ⟨_, (execDrawPixel_of_inBounds hin).trans (State.drawAt_of_gray hin hl), rfl, rfl,
      fun j => (s.pixelAt_withPixel _ j _).trans (streamPixel_singleton_of_inBounds hin level j _).symm⟩
  · exact ⟨_, execDrawPixel_of_outside hin, rfl, rfl, fun j => (streamPixel_singleton_of_outside hin level j _).symm⟩

/-- A stream of gray levels completes with `OK` and leaves in each pixel the level of its last in-bounds pair there. -/
theorem drawStream_of_gray {pairs : List (BitVec 12 × BitVec 12 × BitVec 8)} (hgray : ∀ p ∈ pairs, p.2.2.toNat ≤ 15)
    (s : State) :
    ∃ t, runPseudo (.drawStream pairs) s = .next (t, .ok) ∧ t.env = s.env ∧
      ∀ j, t.pixelAt j = streamPixel s.env.geom j pairs (s.pixelAt j) := by
  induction pairs generalizing s with
  | nil => exact ⟨s, rfl, rfl, fun _ => rfl⟩
  | cons p rest ih =>
    obtain ⟨x, y, level⟩ := p
    obtain ⟨hl, hrest⟩ := List.forall_mem_cons.mp hgray
    obtain ⟨u, hu, hok, henvu, hpixelu⟩ := execDrawPixel_of_gray hl x y s.yield
    obtain ⟨t, ht, henvt, hpixelt⟩ := ih hrest u
    rw [s.yield_env] at henvu hpixelu
    refine ⟨t, ?_, henvt.trans henvu, fun j => ?_⟩
    · have hdraw : exec (.drawPixel x y level) s.yield = .next u := hu
      rw [← ht, runPseudo, expandPseudo, List.map_cons, issueAll, hdraw]
      exact if_pos hok
    · have hyield : s.yield.pixelAt j = s.pixelAt j := by simp [State.pixelAt, State.byteAt]
      rw [hpixelt, henvu, hpixelu, hyield]
      rfl

/-- A list of commands that meets a bad level in the panel ends there with `InvalidColor`, the framebuffer left as it is. -/
theorem issueAll_drawPixel_of_bad {s : State} {x y : BitVec 12} {level : BitVec 8}
    (hin : s.inBounds (signedCoord x) (signedCoord y) = true) (hl : 15 < level.toNat) (later : List Instr) :
    ∃ u, issueAll (.drawPixel x y level :: later) s = .next (u, .err .invalidColor) ∧ u.fb = s.fb := by
  have hyield : s.yield.inBounds (signedCoord x) (signedCoord y) = true :=
    (State.inBounds_congr s.yield_env _ _).trans hin
  have hdraw : exec (.drawPixel x y level) s.yield = .next (s.yield.raise .invalidColor) :=
    (execDrawPixel_of_inBounds hyield).trans (State.drawAt_of_bad hl)
  refine ⟨s.yield.raise .invalidColor, ?_, s.yield_fb⟩
  rw [issueAll, hdraw]
  rfl

/-! ### The obligations -/

/-- Settles O21: the command answers alike before and after the transmitter's step, for the step leaves `FB` and the parameters. -/
theorem framebufferCommutesWithTransmitter : Obligations.FramebufferCommutesWithTransmitter := by
  intro i s t hi hexec
  obtain ⟨m, st, d, -, hanswer⟩ := exec_eq_of_same_memory hi s
  obtain rfl : _ = t := Host.Outcome.next.inj ((hanswer s rfl rfl).symm.trans hexec)
  rw [hanswer s.txStep s.txStep_env s.txStep_fb, State.txStep_respond_withFb]

/-- Settles O31: the answer comes from `FB` and the parameters, `s` being one of the states with that memory. -/
theorem framebufferCommandsTouchMemoryOnly : Obligations.FramebufferCommandsTouchMemoryOnly := by
  intro i s hi
  obtain ⟨m, st, d, hfb, hanswer⟩ := exec_eq_of_same_memory hi s
  exact ⟨_, hanswer s rfl rfl, rfl, hfb, hanswer⟩

/-- Settles O24, by the branches of the two checks. -/
theorem setPixelWritesOnePixel : Obligations.SetPixelWritesOnePixel := by
  intro x y level s
  split
  next hout => exact execSetPixel_of_outside (State.not_inBounds_unsigned hout)
  next hin =>
    have hin : s.inBounds (unsignedCoord x) (unsignedCoord y) = true := (s.inBounds_unsigned x y).mpr (by omega)
    have hexec : exec (.setPixel x y level) s = _ := execSetPixel_of_inBounds hin
    rw [hexec]
    split
    next hbad => exact State.drawAt_of_bad hbad
    next hgray => exact State.drawAt_writes_pixel hin (by omega)

/-- Settles O29, by the branches of the two checks. -/
theorem drawPixelSkipsOutOfBounds : Obligations.DrawPixelSkipsOutOfBounds := by
  intro x y level s
  split
  next hin =>
    have hin : s.inBounds (signedCoord x) (signedCoord y) = true := (s.inBounds_signed x y).mpr hin
    have hexec : exec (.drawPixel x y level) s = _ := execDrawPixel_of_inBounds hin
    rw [hexec]
    split
    next hbad => exact State.drawAt_of_bad hbad
    next hgray => exact State.drawAt_writes_pixel hin (by omega)
  next hout => exact execDrawPixel_of_outside (mt (s.inBounds_signed x y).mp hout)

/-- Settles O25, by the branches of the bounds check. -/
theorem getPixelReadsOnePixel : Obligations.GetPixelReadsOnePixel := by
  intro x y s
  split
  next hout => exact execGetPixel_of_outside (State.not_inBounds_unsigned hout)
  next hin =>
    have hin : s.inBounds (unsignedCoord x) (unsignedCoord y) = true := (s.inBounds_unsigned x y).mpr (by omega)
    rw [← pixelData_eq_setWidth]
    exact execGetPixel_of_inBounds hin

/-- Settles O26, by the branches of the level check. -/
theorem fillReplicatesTheLevel : Obligations.FillReplicatesTheLevel := by
  intro level s
  split
  next hbad => exact execFill_of_bad hbad s
  next hgray =>
    refine ⟨_, execFill_of_gray (by omega) s, rfl, fun a ha => ?_⟩
    rw [← packedLevel_toNat (by omega)]
    exact congrArg BitVec.toNat (s.byteAt_fillBytes _ a ha)

/-- Settles O27: 15 is a gray level and its packed byte is `0xFF`. -/
theorem clearWhitensTheFramebuffer : Obligations.ClearWhitensTheFramebuffer := by
  intro s
  have hpacked : packedLevel 15#8 = 0xFF#8 := by decide
  have hfill : execFill 15#8 s = .next ((s.fillBytes 0xFF#8).respond .ok 0#56) := by
    rw [execFill_of_gray (by decide), hpacked]
  exact ⟨hfill.symm, _, rfl, rfl, s.byteAt_fillBytes 0xFF#8⟩

/-- Settles O28: the listed indices are the rectangle's pixels, and nothing else is written. -/
theorem fillRectSetsItsPixels : Obligations.FillRectSetsItsPixels := by
  intro x y w h level s
  split
  next hout => exact execFillRect_of_outside (State.not_rectInBounds hout)
  next hin =>
    have hin : s.rectInBounds x y w h = true := (s.rectInBounds_iff x y w h).mpr (by omega)
    split
    next hbad => exact execFillRect_of_bad hin hbad
    next hgray =>
      obtain ⟨m, hm, hpixel, -, -, hbyte⟩ := s.nibWriteAll_ok _ (levelNibble level) (s.half_rectPixel_lt hin)
      refine ⟨_, (execFillRect_of_gray hin (by omega)).trans (congrArg completed hm), rfl,
        fun xx yy hx hxw hy hyh => ?_, fun j hj => ?_, fun a ha => hbyte a fun i hi => ?_⟩
      · exact (hpixel _).trans (if_pos ((s.mem_rectPixels x y w h _).mpr ⟨xx, yy, hx, hxw, hy, hyh, rfl⟩))
      · refine (hpixel j).trans (if_neg fun hmem => ?_)
        obtain ⟨xx, yy, hx, hxw, hy, hyh, hjeq⟩ := (s.mem_rectPixels x y w h j).mp hmem
        exact hj xx yy hx hxw hy hyh hjeq
      · obtain ⟨xx, yy, hx, hxw, hy, hyh, rfl⟩ := (s.mem_rectPixels x y w h i).mp hi
        exact ha xx yy hx hxw hy hyh

/-- Settles O30: a side is at most 2047, so it fits its field. -/
theorem bboxReportsThePanel : Obligations.BboxReportsThePanel :=
  fun s => ⟨s.bboxData, rfl, s.bboxData_toNat, dimensionsOf_bboxData s⟩

/-- Settles O32: the gray pairs are drawn with `OK`, and a bad level in the panel after them ends the stream there. -/
theorem drawingStreamClipsAndAborts : Obligations.DrawingStreamClipsAndAborts := by
  intro pairs s hgray
  obtain ⟨t, ht, henv, hpixel⟩ := drawStream_of_gray hgray s
  refine ⟨t, ht, hpixel, fun x y level later hx0 hx hy0 hy hl => ?_⟩
  have hin : t.inBounds (signedCoord x) (signedCoord y) = true :=
    (State.inBounds_congr henv _ _).trans ((s.inBounds_signed x y).mpr ⟨hx0, hx, hy0, hy⟩)
  obtain ⟨u, hu, hfb⟩ := issueAll_drawPixel_of_bad hin hl (expandPseudo (.drawStream later))
  refine ⟨u, ?_, hfb⟩
  rw [← hu, ← issueAll_append_of_ok ht, runPseudo]
  simp [expandPseudo]

end Sys2Proof.Machine
end

section
/-! PROOFS. The configuration-register family (41_config_register_ops.md): how many operations of a ShiftOut are done, what
they leave, and what a configuration command neither reads nor writes. -/

namespace Sys2Proof.Machine

/-! ### How many operations of a write are done (41_config_register_ops.md R100, R111) -/

/-- The next ShiftOut does `n` of its 26 operations: their samples are 0, and the one after them, if there is one, is 1. -/
structure State.WriteStopsAt (s : State) (n : Nat) : Prop where
  le : n ≤ 26
  noFault : s.NoFaultFor n
  fault : n < 26 → s.faultAt (s.faultIx + n) = true

theorem State.WriteStopsAt.unique {s : State} {m n : Nat} (hm : s.WriteStopsAt m) (hn : s.WriteStopsAt n) : m = n := by
  have not_lt : ∀ {i j}, s.WriteStopsAt i → s.WriteStopsAt j → ¬ i < j := fun hi hj h =>
    absurd (hi.fault (h.trans_le hj.le)) (by simp [hj.noFault _ h])
  exact Nat.le_antisymm (Nat.le_of_not_lt (not_lt hn hm)) (Nat.le_of_not_lt (not_lt hm hn))

/-- How a ShiftOut that has done `n` operations ends. -/
def writeEnding (n : Nat) : Ending := if n = 26 then .done else .raised .peripheralFailure

/-- The status of a configuration command whose ShiftOut has done `n` operations. -/
def writeStatus (n : Nat) : Status := if n = 26 then .ok else .err .peripheralFailure

theorem writeEnding_done_iff (n : Nat) : writeEnding n = .done ↔ n = 26 := by
  unfold writeEnding
  split <;> simp [*]

theorem Run.finish_of_writeEnding {r : Run} {n : Nat} (h : r.ending = writeEnding n) :
    r.finish = r.state.respond (writeStatus n) 0#56 := by
  unfold Run.finish
  rw [h]
  unfold writeEnding writeStatus
  by_cases hn : n = 26
  · simp only [if_pos hn]
  · simp only [if_neg hn]; rfl

/-- From `s` to `t` the command agent has done `n` operations of the write of `v`. -/
structure State.Wrote (s t : State) (v : Byte) (n : Nat) : Prop where
  receiver : t.receiver = s.receiver.replay ((writeEvents v).take n)
  commandTrace : t.commandTrace = s.commandTrace ++ (writeEvents v).take n
  faultIx : t.faultIx = s.faultIx + min (n + 1) 26

/-- EVERYTHING a ShiftOut can do, by the number of its operations that the fault samples let through. -/
theorem State.shiftOut_stops (s : State) (v : Byte) :
    ∃ n, s.WriteStopsAt n ∧ s.Wrote (s.shiftOut v).state v n ∧ (s.shiftOut v).ending = writeEnding n := by
  obtain ⟨n, hle, hno, hreceiver, htrace, ⟨rfl, hend, hix⟩ | ⟨hlt, hfault, hend, hix⟩⟩ := s.shiftOut_spec v
  · exact ⟨26, ⟨hle, hno, fun h => absurd h (Nat.lt_irrefl _)⟩, ⟨hreceiver, htrace, hix⟩, hend⟩
  · refine ⟨n, ⟨hle, hno, fun _ => hfault⟩, ⟨hreceiver, htrace, by omega⟩, ?_⟩
    rw [hend, writeEnding, if_neg hlt.ne]

theorem State.WriteStopsAt.shiftOut {s : State} {n : Nat} (h : s.WriteStopsAt n) (v : Byte) :
    s.Wrote (s.shiftOut v).state v n ∧ (s.shiftOut v).ending = writeEnding n := by
  obtain ⟨m, hm, hwrote⟩ := s.shiftOut_stops v
  exact hm.unique h ▸ hwrote

theorem State.shiftOut_done {s : State} {v : Byte} (h : (s.shiftOut v).ending = .done) :
    s.Wrote (s.shiftOut v).state v 26 := by
  obtain ⟨n, -, hwrote, hend⟩ := s.shiftOut_stops v
  have hn : n = 26 := (writeEnding_done_iff n).mp (hend ▸ h)
  exact hn ▸ hwrote

/-! ### What a write leaves in the receiver (41_config_register_ops.md R101, R110, R111) -/

theorem State.Wrote.completed_receiver {s t : State} {v : Byte} (h : s.Wrote t v 26) :
    t.receiver = ⟨v.getLsbD 0, true, true, v, v⟩ :=
  h.receiver.trans (s.receiver.replay_writeEvents v)

theorem State.Wrote.completed_commandTrace {s t : State} {v : Byte} (h : s.Wrote t v 26) :
    t.commandTrace = s.commandTrace ++ writeEvents v := h.commandTrace

theorem State.Wrote.completed_sr {s t : State} {v : Byte} (h : s.Wrote t v 26) : t.sr = v :=
  congrArg Receiver.sr h.completed_receiver

theorem State.Wrote.completed_q {s t : State} {v : Byte} (h : s.Wrote t v 26) : t.q = v :=
  congrArg Receiver.q h.completed_receiver

theorem State.Wrote.completed_stb {s t : State} {v : Byte} (h : s.Wrote t v 26) : t.stb = true :=
  congrArg Receiver.stb h.completed_receiver

theorem State.Wrote.completed_clk {s t : State} {v : Byte} (h : s.Wrote t v 26) : t.clk = true :=
  congrArg Receiver.clk h.completed_receiver

theorem State.Wrote.completed_data {s t : State} {v : Byte} (h : s.Wrote t v 26) : t.data = v.getLsbD 0 :=
  congrArg Receiver.data h.completed_receiver

/-- Before the last operation the latches hold the old byte. -/
theorem State.Wrote.failed_q {s t : State} {v : Byte} {n : Nat} (h : s.Wrote t v n) (hn : n < 26) : t.q = s.q :=
  (congrArg Receiver.q h.receiver).trans (s.receiver.replay_take_q v n hn)

/-- From the first operation to the last but one the strobe is low. -/
theorem Receiver.replay_take_stb (r : Receiver) (v : Byte) {n : Nat} (hpos : 1 ≤ n) (hn : n < 26) :
    (r.replay ((writeEvents v).take n)).stb = false := by
  interval_cases n <;> rfl

/-- The shift stage after `m` rising edges of the clock, the bits of `v` coming in from bit 7 down. -/
def shiftedIn (sr v : Byte) : Nat → Byte
  | 0 => sr
  | m + 1 => (shiftedIn sr v m <<< 1) ||| (BitVec.ofBool (v.getLsbD (7 - m))).setWidth 8

/-- Each bit takes three operations, after the one that lowers the strobe. -/
theorem Receiver.replay_take_sr (r : Receiver) (v : Byte) {n : Nat} (hn : n < 26) :
    (r.replay ((writeEvents v).take n)).sr = shiftedIn r.sr v ((n - 1) / 3) := by
  interval_cases n <;> rfl

/-- One bit shifted in, as a number. -/
theorem shift_in_toNat (sr : Byte) (b : Bool) :
    ((sr <<< 1) ||| (BitVec.ofBool b).setWidth 8).toNat = (2 * sr.toNat + b.toNat) % 256 := by
  revert sr b; decide

/-- The shift stage holds the low byte of its old contents followed by the high bits of `v`. -/
theorem shiftedIn_toNat (sr v : Byte) {m : Nat} (hm : m ≤ 8) :
    (shiftedIn sr v m).toNat = (sr.toNat * 2 ^ m + v.toNat / 2 ^ (8 - m)) % 256 := by
  induction m with
  | zero =>
    have hsr := sr.isLt
    have hv := v.isLt
    simp only [shiftedIn]
    omega
  | succ m ih =>
    have hbit : v.toNat / 2 ^ (7 - m) = 2 * (v.toNat / 2 ^ (8 - m)) + (v.getLsbD (7 - m)).toNat := by
      rw [show 8 - m = (7 - m) + 1 by omega, pow_succ, ← Nat.div_div_eq_div_mul, BitVec.getLsbD, Nat.toNat_testBit]
      omega
    rw [shiftedIn, shift_in_toNat, ih (by omega), show 8 - (m + 1) = 7 - m by omega, hbit, pow_succ, ← Nat.mul_assoc]
    omega

/-! ### The answer of a configuration command (41_config_register_ops.md R102 to R109) -/

/-- The model's masks are the literals of R102 to R107. -/
theorem cfgByte_eq_intentAfter (c : CfgCommand) (v : Byte) : cfgByte c v = intentAfter c v := by
  cases c <;> rfl

theorem State.runCfg_intent (s : State) (c : CfgCommand) : (s.runCfg c).state.cfg = intentAfter c s.cfg :=
  (s.runCfg_cfg c).trans (cfgByte_eq_intentAfter c s.cfg)

theorem exec_cfgInstr (c : CfgCommand) (s : State) : exec (cfgInstr c) s = .next (s.runCfg c).finish := by
  cases c <;> rfl

/-- A configuration command is the write of its new intent, answered by how far the write came. -/
theorem State.WriteStopsAt.exec_cfg {s : State} {n : Nat} (h : s.WriteStopsAt n) (c : CfgCommand) :
    exec (cfgInstr c) s = .next ((s.runCfg c).state.respond (writeStatus n) 0#56) ∧
      s.Wrote (s.runCfg c).state (intentAfter c s.cfg) n := by
  have hcfg : ({ s with cfg := cfgByte c s.cfg } : State).WriteStopsAt n := ⟨h.le, h.noFault, h.fault⟩
  obtain ⟨⟨hreceiver, htrace, hix⟩, hend⟩ := hcfg.shiftOut (cfgByte c s.cfg)
  refine ⟨?_, ?_⟩
  · rw [exec_cfgInstr, Run.finish_of_writeEnding (r := s.runCfg c) hend]
  · exact cfgByte_eq_intentAfter c s.cfg ▸ ⟨hreceiver, htrace, hix⟩

theorem State.exists_writeStopsAt (s : State) : ∃ n, s.WriteStopsAt n :=
  let ⟨n, h, _⟩ := s.shiftOut_stops 0#8
  ⟨n, h⟩

/-! ### While the transmitter is idle the trace is the command agent's (41_config_register_ops.md R110) -/

/-- From `s` to `t` the transmitter is idle, nothing is drawn, and only the command agent adds to the trace. -/
structure State.QuietTo (s t : State) : Prop where
  idle : t.tx = .idle
  txIx : t.txIx = s.txIx
  trace : ∃ l, t.trace = s.trace ++ l ∧ l.filter Event.ofCommandAgent = l

theorem State.QuietTo.lineOps {s t : State} (h : s.QuietTo t) (ops : List (Line × Bool)) :
    s.QuietTo (t.lineOps ops).state := by
  induction ops generalizing t with
  | nil => exact h
  | cons o rest ih =>
    refine Run.andThen_keeps (R := s.QuietTo) ?_ (fun _ hu => ih hu)
    obtain ⟨hidle, hix, l, htrace, hl⟩ := h
    rcases t.lineOp_cases o.1 o.2 with ⟨-, e⟩ | ⟨-, e⟩ <;> rw [e, State.yield_of_idle hidle]
    · have hgrown : (l ++ [lineEvent o]).filter Event.ofCommandAgent = l ++ [lineEvent o] := by
        simp [hl, lineEvent, Event.ofCommandAgent]
      exact ⟨by simpa [State.done] using hidle, by simpa [State.done] using hix, _,
        by simp [State.done, htrace, lineEvent], hgrown⟩
    · exact ⟨hidle, hix, l, htrace, hl⟩

theorem State.runCfg_quietTo {s : State} (h : s.tx = .idle) (c : CfgCommand) : s.QuietTo (s.runCfg c).state :=
  State.QuietTo.lineOps (s := s) (t := { s with cfg := cfgByte c s.cfg }) ⟨h, rfl, [], by simp, rfl⟩ _

theorem State.QuietTo.trace_of_commandTrace {s t : State} {l : List Event} (h : s.QuietTo t)
    (htrace : t.commandTrace = s.commandTrace ++ l) : t.trace = s.trace ++ l := by
  obtain ⟨l', ht, hl'⟩ := h.trace
  have hcommand : t.commandTrace = s.commandTrace ++ l' := by
    rw [State.commandTrace, ht, List.filter_append, hl']; rfl
  rw [ht, List.append_cancel_left (hcommand.symm.trans htrace)]

/-! ### A configuration command does not read the power state and the channel (41_config_register_ops.md R108) -/

/-- `s` with other values of `PWR`, `SLOT` and `PROG`. -/
def State.withChannel (s : State) (p : PowerState) (sl : Slot) (pr : List Seg) : State :=
  { s with pwr := p, slot := sl, prog := pr }

/-- A run that ends the same way in another state. -/
def Run.withState (r : Run) (f : State → State) : Run := ⟨f r.state, r.ending⟩

section
variable (p : PowerState) (sl : Slot) (pr : List Seg)

theorem State.txStep_withChannel (s : State) : (s.withChannel p sl pr).txStep = s.txStep.withChannel p sl pr := by
  unfold State.txStep
  rw [show (s.withChannel p sl pr).tx = s.tx from rfl]
  split <;> rfl

theorem State.txSteps_withChannel (n : Nat) (s : State) :
    State.txSteps n (s.withChannel p sl pr) = (State.txSteps n s).withChannel p sl pr := by
  induction n generalizing s with
  | zero => rfl
  | succ n ih => rw [State.txSteps, State.txStep_withChannel, ih, State.txSteps]

theorem State.yield_withChannel (s : State) : (s.withChannel p sl pr).yield = s.yield.withChannel p sl pr := by
  unfold State.yield
  rw [show (s.withChannel p sl pr).tx = s.tx from rfl]
  split
  · rfl
  · exact State.txSteps_withChannel p sl pr _ { s with txIx := s.txIx + 1 }

theorem State.setLine_withChannel (s : State) (n : Line) (b : Bool) :
    (s.withChannel p sl pr).setLine n b = (s.setLine n b).withChannel p sl pr := by
  cases n <;> rfl

theorem State.lineOp_withChannel (s : State) (n : Line) (b : Bool) :
    (s.withChannel p sl pr).lineOp n b = (s.lineOp n b).withState (·.withChannel p sl pr) := by
  unfold State.lineOp State.unlessFault
  rw [State.yield_withChannel, show (s.yield.withChannel p sl pr).fault = s.yield.fault from rfl]
  split
  · rfl
  · exact congrArg State.done (State.setLine_withChannel p sl pr s.yield.sampled n b)

theorem State.lineOps_withChannel (s : State) (ops : List (Line × Bool)) :
    (s.withChannel p sl pr).lineOps ops = (s.lineOps ops).withState (·.withChannel p sl pr) := by
  induction ops generalizing s with
  | nil => rfl
  | cons o rest ih =>
    rw [State.lineOps, State.lineOps, State.lineOp_withChannel]
    obtain ⟨t, e⟩ := s.lineOp o.1 o.2
    cases e with
    | done => exact ih t
    | raised k => rfl
    | held => rfl

theorem State.runCfg_withChannel (s : State) (c : CfgCommand) :
    (s.withChannel p sl pr).runCfg c = (s.runCfg c).withState (·.withChannel p sl pr) :=
  State.lineOps_withChannel p sl pr { s with cfg := cfgByte c s.cfg } _

theorem Run.finish_withChannel (r : Run) :
    (r.withState (·.withChannel p sl pr)).finish = r.finish.withChannel p sl pr := by
  obtain ⟨t, e⟩ := r
  cases e <;> rfl

theorem exec_cfgInstr_withChannel (c : CfgCommand) (s : State) :
    exec (cfgInstr c) (s.withChannel p sl pr) = .next ((s.runCfg c).finish.withChannel p sl pr) := by
  rw [exec_cfgInstr, State.runCfg_withChannel, Run.finish_withChannel]

end

/-! ### The obligations -/

/-- Settles O33: a completed write has done all 26 operations. -/
theorem completedShiftCommitsTheByte : Obligations.CompletedShiftCommitsTheByte := by
  intro s v hdone
  have h := State.shiftOut_done hdone
  exact ⟨h.completed_sr, h.completed_q, h.completed_stb, h.completed_clk, h.completed_data, h.completed_commandTrace,
    s.receiver.replay_take_q v⟩

/-- Settles O34: the samples let `k - 1` operations through. -/
theorem failedShiftLeavesLatchesAlone : Obligations.FailedShiftLeavesLatchesAlone := by
  intro s v k hpos hk hno hfault
  have hstop : s.WriteStopsAt (k - 1) := ⟨by omega, hno, fun _ => hfault⟩
  have hlt : k - 1 < 26 := by omega
  obtain ⟨h, hend⟩ := hstop.shiftOut v
  have hsr : (s.shiftOut v).state.sr = shiftedIn s.sr v ((k - 2) / 3) :=
    (congrArg Receiver.sr h.receiver).trans (s.receiver.replay_take_sr v hlt)
  refine ⟨hend.trans (if_neg hlt.ne), h.commandTrace, h.receiver, ?_, h.failed_q hlt, fun hk2 => ?_, fun u hdone => ?_⟩
  · rw [hsr, shiftedIn_toNat s.sr v (by omega)]
  · exact (congrArg Receiver.stb h.receiver).trans (s.receiver.replay_take_stb v (by omega) hlt)
  · have hnext := State.shiftOut_done hdone
    exact ⟨hnext.completed_sr, hnext.completed_q⟩

/-- Settles O35: the samples let all 26 operations through. -/
theorem registerCommandShiftsWholeByte : Obligations.RegisterCommandShiftsWholeByte := by
  intro c s hno
  have hstop : s.WriteStopsAt 26 := ⟨Nat.le_refl _, hno, fun h => absurd h (Nat.lt_irrefl _)⟩
  obtain ⟨hexec, h⟩ := hstop.exec_cfg c
  refine ⟨_, hexec, s.runCfg_intent c, h.completed_commandTrace, h.completed_sr, h.completed_q, h.completed_stb,
    h.completed_clk, h.completed_data, rfl, rfl, h.faultIx, s.runCfg_env c, s.runCfg_commands c, s.runCfg_held c,
    s.runCfg_fb c, s.runCfg_pwr c, s.runCfg_slot c, s.runCfg_prog c, s.runCfg_txMoved c, fun hidle => ?_⟩
  have hquiet := State.runCfg_quietTo hidle c
  exact ⟨hquiet.txIx, hquiet.trace_of_commandTrace h.completed_commandTrace⟩

/-- Settles O36: the intent is stored before the write, which the fault samples let come as far as they do. -/
theorem intentIsKeptWhenTheWriteFails : Obligations.IntentIsKeptWhenTheWriteFails := by
  intro c s
  obtain ⟨n, hstop⟩ := s.exists_writeStopsAt
  obtain ⟨hexec, h⟩ := hstop.exec_cfg c
  refine ⟨_, n, hexec, s.runCfg_intent c, rfl, h.commandTrace, ?_, s.runCfg_fb c, s.runCfg_pwr c, s.runCfg_slot c,
    s.runCfg_prog c, s.runCfg_held c⟩
  rcases hstop.le.eq_or_lt with rfl | hlt
  · exact .inl ⟨rfl, rfl, h.completed_q⟩
  · exact .inr ⟨if_neg hlt.ne, hlt, h.failed_q hlt⟩

/-- Settles O37: the run commutes with a change of `PWR`, `SLOT` and `PROG`, and how far the write comes depends on the fault
samples alone, whatever the transmitter does. -/
theorem registerCommandsIgnorePowerAndChannel : Obligations.RegisterCommandsIgnorePowerAndChannel := by
  intro c s t p sl pr tx hexec
  obtain rfl : (s.runCfg c).finish = t := Host.Outcome.next.inj ((exec_cfgInstr c s).symm.trans hexec)
  refine ⟨by simp, Run.finish_txMoved (s.runCfg_txMoved c), exec_cfgInstr_withChannel p sl pr c s, ?_⟩
  obtain ⟨n, hstop⟩ := s.exists_writeStopsAt
  obtain ⟨hrun, h⟩ := hstop.exec_cfg c
  have hother : ({ s with tx := tx } : State).WriteStopsAt n := ⟨hstop.le, hstop.noFault, hstop.fault⟩
  obtain ⟨hrunOther, hwroteOther⟩ := hother.exec_cfg c
  rw [Host.Outcome.next.inj (hexec.symm.trans hrun)]
  have hcfg := (State.runCfg_intent { s with tx := tx } c).trans (s.runCfg_intent c).symm
  exact ⟨_, hrunOther, hcfg, rfl, hwroteOther.commandTrace.trans h.commandTrace.symm,
    hwroteOther.receiver.trans h.receiver.symm, hwroteOther.faultIx.trans h.faultIx.symm⟩

end Sys2Proof.Machine
end

section
/-! PROOFS. The pulse family (42_pulse_ops.md): what a transmission plays, what each of the four steps of PULSE does, how the
wait can end, what PULSE does not read, and what STAT answers. -/

namespace Sys2Proof.Machine

/-! ### A transmission (42_pulse_ops.md R129, R131) -/

theorem State.txBusy_iff (s : State) : s.txBusy = true ↔ s.tx ≠ .idle := by
  unfold State.txBusy
  split <;> simp [*]

theorem State.txStep_of_segment {s : State} {g : Seg} {rest : List Seg} (h : s.tx = .running (g :: rest)) :
    s.txStep = ({ s with pls := g.level, tx := .running rest } : State).emit (.seg g.level g.ticks) := by
  rw [State.txStep, h]

theorem State.txStep_of_end {s : State} (h : s.tx = .running []) :
    s.txStep = ({ s with pls := false, tx := .idle } : State).emit .txEnd := by
  rw [State.txStep, h]

/-- `s` after the segments `rest` and the end marker have been played. -/
def State.played (s : State) (rest : List Seg) : State :=
  { s with
    tx := .idle, pls := false,
    trace := s.trace ++ (rest.map (fun g => .seg g.level g.ticks) ++ [.txEnd]) }

theorem State.txSteps_to_end {s : State} {rest : List Seg} (h : s.tx = .running rest) :
    State.txSteps (rest.length + 1) s = s.played rest := by
  induction rest generalizing s with
  | nil => exact State.txStep_of_end h
  | cons g rest ih =>
    have hstep := State.txStep_of_segment h
    calc State.txSteps (rest.length + 1) s.txStep
      _ = s.txStep.played rest := ih (by rw [hstep]; rfl)
      _ = s.played (g :: rest) := by simp [hstep, State.played, State.emit]

theorem State.txSteps_tx_of_le {s : State} {rest : List Seg} {n : Nat} (h : s.tx = .running rest) (hn : n ≤ rest.length) :
    (State.txSteps n s).tx = .running (rest.drop n) := by
  induction n generalizing s rest with
  | zero => exact h
  | succ n ih =>
    cases rest with
    | nil => exact absurd hn (Nat.not_succ_le_zero n)
    | cons g rest => exact ih (by rw [State.txStep_of_segment h]; rfl) (Nat.le_of_succ_le_succ hn)

theorem State.drain_of_running {s : State} {rest : List Seg} (h : s.tx = .running rest) : s.drain = s.played rest := by
  rw [← State.txSteps_to_end h, State.drain, h]

@[simp] theorem State.drain_tx (s : State) : s.drain.tx = .idle := by
  cases h : s.tx with
  | idle => rw [State.drain_of_idle h, h]
  | running rest => rw [State.drain_of_running h]; rfl

/-! ### Sequencing and the fault input (10_state.md R30) -/

theorem Run.andThen_of_done {r : Run} (h : r.ending = .done) (f : State → Run) : r.andThen f = f r.state := by
  rw [Run.andThen, h]

theorem Run.andThen_of_stopped {r : Run} (h : r.ending ≠ .done) (f : State → Run) : r.andThen f = r :=
  (r.andThen_cases f).elim (fun hd => absurd hd.1 h) And.right

theorem State.NoFaultFor.mono {s : State} {m n : Nat} (h : s.NoFaultFor n) (hmn : m ≤ n) : s.NoFaultFor m :=
  fun k hk => h k (hk.trans_le hmn)

theorem State.unlessFault_of_fault {s : State} (h : s.fault = true) (k : ErrKind) (f : State → Run) :
    s.unlessFault k f = s.sampled.fail k := if_pos h

theorem State.unlessFault_of_noFault {s : State} (h : s.fault = false) (k : ErrKind) (f : State → Run) :
    s.unlessFault k f = f s.sampled := if_neg (by simp [h])

/-! ### Acquire and Start (42_pulse_ops.md R122, R124) -/

/-- A run that Acquire or Start ended. -/
def Run.Refused (r : Run) : Prop := r.ending = .raised .channelOwnership ∨ r.ending = .raised .peripheralFailure

theorem Run.Refused.andThen {r : Run} (h : r.Refused) (f : State → Run) : r.andThen f = r :=
  Run.andThen_of_stopped (by rcases h with h | h <;> simp [h]) f

theorem State.acquire_of_present {s : State} (h : s.slot = .present) : s.acquire = s.done := by
  rw [State.acquire, h]

theorem State.acquire_of_busy {s : State} (h : s.slot = .empty) (hbusy : s.tx ≠ .idle) :
    s.acquire = s.fail .channelOwnership := by
  rw [State.acquire, h]
  exact if_pos (s.txBusy_iff.mpr hbusy)

theorem State.acquire_of_construct {s : State} (h : s.slot = .empty) (hidle : s.tx = .idle) :
    s.acquire = s.unlessFault .peripheralFailure (fun t => ({ t with slot := .present } : State).done) := by
  rw [State.acquire, h]
  exact if_neg (fun hbusy => s.txBusy_iff.mp hbusy hidle)

/-- Acquire goes through, or it is one of its two errors. -/
theorem State.acquire_ends (s : State) : s.acquire.ending = .done ∨ s.acquire.Refused := by
  cases hslot : s.slot with
  | present => exact .inl (by rw [State.acquire_of_present hslot]; rfl)
  | empty =>
    by_cases hidle : s.tx = .idle
    · rw [State.acquire_of_construct hslot hidle]
      rcases s.unlessFault_cases .peripheralFailure (fun t => ({ t with slot := .present } : State).done) with
        ⟨-, e⟩ | ⟨-, e⟩ <;> rw [e]
      · exact .inl rfl
      · exact .inr (.inr rfl)
    · exact .inr (.inl (by rw [State.acquire_of_busy hslot hidle]; rfl))

/-- `s` after Acquire has gone through on an idle transmitter. -/
def State.acquired (s : State) : State :=
  { s with slot := .present, faultIx := s.faultIx + s.constructSamples }

/-- With the transmitter idle, Acquire goes through when the samples it takes are 0. -/
theorem State.acquire_of_idle {s : State} (hidle : s.tx = .idle) (hno : s.NoFaultFor s.constructSamples) :
    s.acquire = s.acquired.done := by
  unfold State.acquired
  cases hslot : s.slot with
  | present =>
    have hsamples : s.constructSamples = 0 := by rw [State.constructSamples, hslot]
    rw [State.acquire_of_present hslot, hsamples, ← hslot]
    rfl
  | empty =>
    have hsamples : s.constructSamples = 1 := by rw [State.constructSamples, hslot]
    rw [hsamples] at hno ⊢
    rw [State.acquire_of_construct hslot hidle, State.unlessFault_of_noFault (hno 0 Nat.one_pos)]
    rfl

theorem State.start_of_fault {s : State} (h : s.fault = true) (segs : List Seg) :
    s.start segs =
      ({ s with slot := .empty, faultIx := s.faultIx + 1 } : State).fail .peripheralFailure :=
  State.unlessFault_of_fault (s := { s with slot := .empty }) h _ _

theorem State.start_of_noFault {s : State} (h : s.fault = false) (segs : List Seg) :
    s.start segs =
      ({ s with
          slot := .empty, tx := .running segs, faultIx := s.faultIx + 1, trace := s.trace ++ [.txStart segs] } : State).done :=
  State.unlessFault_of_noFault (s := { s with slot := .empty }) h _ _

/-- Start goes through with the slot empty, or it is its one error. -/
theorem State.start_ends (s : State) (segs : List Seg) :
    ((s.start segs).ending = .done ∧ (s.start segs).state.slot = .empty) ∨ (s.start segs).Refused := by
  cases h : s.fault with
  | false => rw [State.start_of_noFault h]; exact .inl ⟨rfl, rfl⟩
  | true => rw [State.start_of_fault h]; exact .inr (.inr rfl)

/-! ### The wait and the release (42_pulse_ops.md R128, R131) -/

/-- EVERY end of the wait: it is lifted with the transmitter idle, or it holds the command, which fairness rules out. -/
theorem State.waitIdle_cases (s : State) :
    (s.waitIdle.ending = .done ∧ s.waitIdle.state.tx = .idle) ∨
      (s.waitIdle.ending = .held ∧ s.waitIdle.state.tx ≠ .idle ∧ s.waitIdle.state.env.fairTx = false) := by
  unfold State.waitIdle
  dsimp only
  split
  next hidle => exact .inl ⟨rfl, hidle⟩
  next rest hrunning =>
    refine .inr ⟨rfl, by simp [hrunning], ?_⟩
    cases hfair : s.env.fairTx with
    | false => simp [hfair]
    | true => simp [hfair] at hrunning

theorem State.waitIdle_slot (s : State) : s.waitIdle.state.slot = s.slot := by
  unfold State.waitIdle
  dsimp only
  split <;> split <;> simp [State.done]

theorem State.waitIdle_of_fair {s : State} {rest : List Seg} (hfair : s.env.fairTx = true) (h : s.tx = .running rest) :
    s.waitIdle = (s.played rest).done := by
  simp [State.waitIdle, hfair, State.drain_of_running h, State.played]

theorem State.waitAndReclaim_of_noFault {s : State} {rest : List Seg} (hfair : s.env.fairTx = true)
    (h : s.tx = .running rest) (hno : s.fault = false) :
    s.waitAndReclaim = ({ s.played rest with slot := .present, faultIx := s.faultIx + 1 } : State).done := by
  rw [State.waitAndReclaim, State.waitIdle_of_fair hfair h, Run.andThen_done]
  exact State.unlessFault_of_noFault (s := s.played rest) hno _ _

theorem State.waitAndReclaim_of_fault {s : State} {rest : List Seg} (hfair : s.env.fairTx = true)
    (h : s.tx = .running rest) (hfault : s.fault = true) :
    s.waitAndReclaim = ({ s.played rest with faultIx := s.faultIx + 1 } : State).fail .internal := by
  rw [State.waitAndReclaim, State.waitIdle_of_fair hfair h, Run.andThen_done]
  exact State.unlessFault_of_fault (s := s.played rest) hfault _ _

/-- How a waiting pulse stands at its end: gone through with an idle transmitter and the channel back; failed at the release
with an idle transmitter and the slot empty; failed before the wait; or held, without fairness, by a running transmitter. -/
def Run.WaitEnd (r : Run) : Prop :=
  match r.ending with
  | .done => r.state.tx = .idle ∧ r.state.slot = .present
  | .raised k => k = .channelOwnership ∨ k = .peripheralFailure ∨ k = .internal ∧ r.state.tx = .idle ∧ r.state.slot = .empty
  | .held => r.state.env.fairTx = false ∧ r.state.tx ≠ .idle ∧ r.state.slot = .empty

theorem Run.Refused.waitEnd {r : Run} (h : r.Refused) : r.WaitEnd := by
  unfold Run.WaitEnd
  rcases h with h | h <;> rw [h]
  · exact .inl rfl
  · exact .inr (.inl rfl)

theorem State.waitAndReclaim_waitEnd {s : State} (hslot : s.slot = .empty) : s.waitAndReclaim.WaitEnd := by
  have hempty := s.waitIdle_slot.trans hslot
  unfold State.waitAndReclaim
  rcases s.waitIdle_cases with ⟨hdone, hidle⟩ | ⟨hheld, hbusy, hunfair⟩
  · rw [Run.andThen_of_done hdone]
    rcases s.waitIdle.state.unlessFault_cases .internal (fun u => ({ u with slot := .present } : State).done) with
      ⟨-, e⟩ | ⟨-, e⟩ <;> rw [e]
    · exact ⟨hidle, rfl⟩
    · exact .inr (.inr ⟨rfl, hidle, hempty⟩)
  · rw [Run.andThen_of_stopped (by simp [hheld]), Run.WaitEnd, hheld]
    exact ⟨hunfair, hbusy, hempty⟩

/-! ### The whole of PULSE (42_pulse_ops.md R120, R133) -/

theorem exec_pulse {high low : BitVec 16} (hz : ¬(high = 0#16 ∧ low = 0#16)) (wait : Bool) (s : State) :
    exec (.pulse high low wait) s = .next (s.runPulse high low wait).finish := if_neg hz

theorem State.runPulse_waitEnd (s : State) (high low : BitVec 16) : (s.runPulse high low true).WaitEnd := by
  unfold State.runPulse
  rcases s.acquire_ends with hacq | hrefused
  · rw [Run.andThen_of_done hacq]
    rcases (s.acquire.state.build high low).start_ends (buildSegs high low) with ⟨hstart, hslot⟩ | hfailed
    · rw [Run.andThen_of_done hstart]
      exact State.waitAndReclaim_waitEnd hslot
    · rw [hfailed.andThen]
      exact hfailed.waitEnd
  · rw [hrefused.andThen]
    exact hrefused.waitEnd

/-- `s` after Acquire, Build and Start of a pulse have gone through on an idle transmitter. -/
def State.started (s : State) (segs : List Seg) : State :=
  { s with
    slot := .empty, prog := segs, tx := .running segs, faultIx := s.faultIx + (s.constructSamples + 1),
    trace := s.trace ++ [.txStart segs] }

theorem State.started_played {s : State} (hidle : s.tx = .idle) (segs : List Seg) :
    (s.started segs).played segs =
      { s with
        slot := .empty, prog := segs, pls := false, faultIx := s.faultIx + (s.constructSamples + 1),
        trace := s.trace ++ playEvents segs } := by
  simp [State.started, State.played, playEvents, hidle]

theorem State.runPulse_of_start {s : State} (hidle : s.tx = .idle) (hno : s.NoFaultFor (s.constructSamples + 1))
    (high low : BitVec 16) (wait : Bool) :
    s.runPulse high low wait =
      if wait then (s.started (buildSegs high low)).waitAndReclaim else (s.started (buildSegs high low)).done := by
  have hstart : (s.acquired.build high low).fault = false := hno _ (Nat.lt_succ_self _)
  rw [State.runPulse, State.acquire_of_idle hidle (hno.mono (Nat.le_succ _)), Run.andThen_done,
    State.start_of_noFault hstart]
  rfl

theorem State.runPulse_of_startFault {s : State} (hidle : s.tx = .idle) (hno : s.NoFaultFor s.constructSamples)
    (hfault : s.faultAt (s.faultIx + s.constructSamples) = true) (high low : BitVec 16) (wait : Bool) :
    s.runPulse high low wait =
      ({ s with
          slot := .empty, prog := buildSegs high low, faultIx := s.faultIx + (s.constructSamples + 1) } : State).fail
        .peripheralFailure := by
  have hstart : (s.acquired.build high low).fault = true := hfault
  rw [State.runPulse, State.acquire_of_idle hidle hno, Run.andThen_done, State.start_of_fault hstart]
  rfl

/-! ### PULSE does not read the power state, the intent and the framebuffer (42_pulse_ops.md R121) -/

/-- `s` with other values of `PWR`, `CFG` and `FB`. -/
def State.withPowerAndMemory (p : PowerState) (v : Byte) (m : Memory) (s : State) : State :=
  { s with pwr := p, cfg := v, fb := m }

/-- The steps `g` run the same way, and end the same way, on a state changed by `f`. -/
def Unaffected (f : State → State) (g : State → Run) : Prop := ∀ s, g (f s) = (g s).withState f

theorem Unaffected.andThen {f : State → State} {g k : State → Run} (hg : Unaffected f g) (hk : Unaffected f k) :
    Unaffected f (fun s => (g s).andThen k) := by
  intro s
  dsimp only
  rw [hg s]
  obtain ⟨t, e⟩ := g s
  cases e with
  | done => exact hk t
  | raised _ => rfl
  | held => rfl

section
variable (p : PowerState) (v : Byte) (m : Memory)

theorem Unaffected.unlessFault {k : State → Run} (hk : Unaffected (State.withPowerAndMemory p v m) k) (e : ErrKind) :
    Unaffected (State.withPowerAndMemory p v m) (fun s => s.unlessFault e k) := by
  intro s
  have hfault : (s.withPowerAndMemory p v m).fault = s.fault := rfl
  dsimp only
  cases h : s.fault with
  | false =>
    rw [State.unlessFault_of_noFault h, State.unlessFault_of_noFault (hfault.trans h)]
    exact hk s.sampled
  | true =>
    rw [State.unlessFault_of_fault h, State.unlessFault_of_fault (hfault.trans h)]
    rfl

theorem State.txStep_withPowerAndMemory (s : State) :
    (s.withPowerAndMemory p v m).txStep = s.txStep.withPowerAndMemory p v m := by
  unfold State.txStep
  rw [show (s.withPowerAndMemory p v m).tx = s.tx from rfl]
  split <;> rfl

theorem State.txSteps_withPowerAndMemory (n : Nat) (s : State) :
    State.txSteps n (s.withPowerAndMemory p v m) = (State.txSteps n s).withPowerAndMemory p v m := by
  induction n generalizing s with
  | zero => rfl
  | succ n ih => rw [State.txSteps, State.txStep_withPowerAndMemory, ih, State.txSteps]

theorem State.yield_withPowerAndMemory (s : State) :
    (s.withPowerAndMemory p v m).yield = s.yield.withPowerAndMemory p v m := by
  unfold State.yield
  rw [show (s.withPowerAndMemory p v m).tx = s.tx from rfl]
  split
  · rfl
  · exact State.txSteps_withPowerAndMemory p v m _ { s with txIx := s.txIx + 1 }

theorem State.drain_withPowerAndMemory (s : State) :
    (s.withPowerAndMemory p v m).drain = s.drain.withPowerAndMemory p v m := by
  cases h : s.tx with
  | idle => rw [State.drain_of_idle h, State.drain_of_idle (s := s.withPowerAndMemory p v m) h]
  | running rest =>
    rw [State.drain_of_running h, State.drain_of_running (s := s.withPowerAndMemory p v m) h]
    rfl

theorem State.acquire_unaffected : Unaffected (State.withPowerAndMemory p v m) State.acquire := by
  intro s
  cases hslot : s.slot with
  | present =>
    rw [State.acquire_of_present hslot, State.acquire_of_present (s := s.withPowerAndMemory p v m) hslot]
    rfl
  | empty =>
    by_cases hidle : s.tx = .idle
    · rw [State.acquire_of_construct hslot hidle,
        State.acquire_of_construct (s := s.withPowerAndMemory p v m) hslot hidle]
      exact Unaffected.unlessFault p v m (k := fun t => ({ t with slot := .present } : State).done) (fun _ => rfl)
        .peripheralFailure s
    · rw [State.acquire_of_busy hslot hidle, State.acquire_of_busy (s := s.withPowerAndMemory p v m) hslot hidle]
      rfl

theorem State.start_unaffected (segs : List Seg) :
    Unaffected (State.withPowerAndMemory p v m) (fun s => s.start segs) := fun s =>
  Unaffected.unlessFault p v m (k := fun t => (({ t with tx := .running segs } : State).emit (.txStart segs)).done)
    (fun _ => rfl) .peripheralFailure { s with slot := .empty }

theorem State.waitIdle_unaffected : Unaffected (State.withPowerAndMemory p v m) State.waitIdle := by
  intro s
  have hwaited :
      (if (s.withPowerAndMemory p v m).env.fairTx then (s.withPowerAndMemory p v m).drain
        else (s.withPowerAndMemory p v m).yield) =
      (if s.env.fairTx then s.drain else s.yield).withPowerAndMemory p v m := by
    rw [show (s.withPowerAndMemory p v m).env = s.env from rfl, State.drain_withPowerAndMemory,
      State.yield_withPowerAndMemory]
    split <;> rfl
  unfold State.waitIdle
  rw [hwaited]
  generalize (if s.env.fairTx then s.drain else s.yield) = t
  dsimp only
  rw [show (t.withPowerAndMemory p v m).tx = t.tx from rfl]
  split <;> rfl

theorem State.waitAndReclaim_unaffected : Unaffected (State.withPowerAndMemory p v m) State.waitAndReclaim :=
  (State.waitIdle_unaffected p v m).andThen (Unaffected.unlessFault p v m (fun _ => rfl) .internal)

theorem State.runPulse_unaffected (high low : BitVec 16) (wait : Bool) :
    Unaffected (State.withPowerAndMemory p v m) (fun s => s.runPulse high low wait) := by
  refine (State.acquire_unaffected p v m).andThen (Unaffected.andThen (fun t => ?_) (fun u => ?_))
  · exact State.start_unaffected p v m (buildSegs high low) (t.build high low)
  · cases wait with
    | false => rfl
    | true => exact State.waitAndReclaim_unaffected p v m u

theorem Run.finish_withPowerAndMemory (r : Run) :
    (r.withState (State.withPowerAndMemory p v m)).finish = r.finish.withPowerAndMemory p v m := by
  obtain ⟨t, e⟩ := r
  cases e <;> rfl

theorem exec_pulse_withPowerAndMemory {s t : State} {high low : BitVec 16} {wait : Bool}
    (h : exec (.pulse high low wait) s = .next t) :
    exec (.pulse high low wait) (s.withPowerAndMemory p v m) = .next (t.withPowerAndMemory p v m) := by
  by_cases hz : high = 0#16 ∧ low = 0#16
  · have hempty : ∀ u, exec (.pulse high low wait) u = .next (u.raise .illegalCommand) := fun _ => if_pos hz
    rw [hempty] at h ⊢
    rw [← Host.Outcome.next.inj h]
    rfl
  · have hrun := State.runPulse_unaffected p v m high low wait s
    dsimp only at hrun
    rw [exec_pulse hz] at h ⊢
    rw [hrun, Run.finish_withPowerAndMemory, Host.Outcome.next.inj h]

end

/-! ### The control state as data (42_pulse_ops.md R132) -/

theorem State.statData_toNat (s : State) :
    s.statData.toNat =
      s.txBusy.toNat * 2048 + s.slot.bit.toNat * 1024 + s.pwr.code.toNat * 256 + s.cfg.toNat := by
  rw [State.statData, append_toNat, append_toNat, append_toNat, append_toNat, BitVec.toNat_ofBool, BitVec.toNat_ofBool,
    BitVec.toNat_ofNat]
  omega

/-! ### The obligations -/

/-- Settles O47, by induction over the segments and over the steps. -/
theorem transmissionPlaysToItsEnd : Obligations.TransmissionPlaysToItsEnd :=
  fun _ _ h => ⟨State.txSteps_to_end h, fun _ hn => State.txSteps_tx_of_le h hn⟩

/-- Settles O8: a step is read off in each of its two cases without a word. -/
theorem stepWithoutCommand : Obligations.StepWithoutCommand := by
  refine fun s => ⟨fun hheld hnone => ?_, fun hheld => ?_⟩
  · rw [step, hheld, hnone]; rfl
  · rw [step, hheld]

/-- Settles O38: each part is there exactly when its duration is not 0. -/
theorem pulseProgramHasItsParts : Obligations.PulseProgramHasItsParts := by
  intro high low s
  refine ⟨rfl, fun hhigh hlow => ?_, fun hhigh hlow => ?_, fun hhigh hlow => ?_⟩ <;> simp [buildSegs, hhigh, hlow]

/-- Settles O39, branch by branch. -/
theorem acquireFollowsItsBranches : Obligations.AcquireFollowsItsBranches := by
  refine fun s => ⟨State.acquire_of_present, State.acquire_of_busy, fun hslot hidle hfault => ?_,
    fun hslot hidle hfault => ?_⟩ <;> rw [State.acquire_of_construct hslot hidle]
  · exact State.unlessFault_of_fault hfault _ _
  · exact State.unlessFault_of_noFault hfault _ _

/-- Settles O40: the slot is empty on both branches of the sample. -/
theorem startEmptiesTheSlotFirst : Obligations.StartEmptiesTheSlotFirst :=
  fun _ segs => ⟨fun h => State.start_of_fault h segs, fun h => State.start_of_noFault h segs⟩

/-- Settles O43: Acquire refuses, and nothing comes after it. -/
theorem pulseWhilePlayingIsRefused : Obligations.PulseWhilePlayingIsRefused := by
  intro high low wait s rest hz hslot hrunning
  have hacq := State.acquire_of_busy hslot (by simp [hrunning])
  rw [exec_pulse hz, State.runPulse, hacq]
  rfl

/-- Settles O42: after Start nothing is left to do. -/
theorem nonWaitingPulseLeavesChannelOut : Obligations.NonWaitingPulseLeavesChannelOut := by
  intro high low s hz hidle hno
  rw [exec_pulse hz, State.runPulse_of_start hidle hno]
  rfl

/-- Settles O41: after Start the wait plays the program, and the release is sampled with 0. -/
theorem waitingPulsePlaysAndReclaims : Obligations.WaitingPulsePlaysAndReclaims := by
  intro high low s hz hidle hfair hno
  have hrelease : (s.started (buildSegs high low)).fault = false := hno _ (Nat.lt_succ_self _)
  rw [exec_pulse hz, State.runPulse_of_start hidle (hno.mono (Nat.le_succ _)), if_pos rfl,
    State.waitAndReclaim_of_noFault (s := s.started _) hfair rfl hrelease, State.started_played hidle]
  rfl

/-- Settles O44: the fault stops the pulse at Acquire, at Start, or at the release. -/
theorem pulseFaultsLeaveTheirState : Obligations.PulseFaultsLeaveTheirState := by
  intro high low wait s hz hidle
  rw [exec_pulse hz]
  refine ⟨fun hslot hfault => ?_, fun hno hfault => ?_, ?_⟩
  · rw [State.runPulse, State.acquire_of_construct hslot hidle, State.unlessFault_of_fault hfault]
    rfl
  · rw [State.runPulse_of_startFault hidle hno hfault]
    rfl
  · rintro rfl hfair hno hfault
    have hrelease : (s.started (buildSegs high low)).fault = true := hfault
    rw [State.runPulse_of_start hidle hno, if_pos rfl,
      State.waitAndReclaim_of_fault (s := s.started _) hfair rfl hrelease, State.started_played hidle]
    rfl

/-- Settles O45, by how a waiting pulse can stand at its end. -/
theorem waitEndsWithTransmitterIdleOnly : Obligations.WaitEndsWithTransmitterIdleOnly := by
  intro high low s hz hheld
  refine ⟨_, exec_pulse hz true s, ?_⟩
  have hend := s.runPulse_waitEnd high low
  have hfree : ¬ (s.runPulse high low true).state.held = true := by simp [hheld]
  unfold Run.WaitEnd at hend
  rcases (s.runPulse high low true).finish_cases with ⟨h, e⟩ | ⟨k, h, e⟩ | ⟨h, e⟩ <;> rw [h] at hend <;> rw [e]
  · exact ⟨fun _ _ => hend, fun _ => nofun, fun _ => List.mem_cons_self, fun hh => absurd hh hfree⟩
  · refine ⟨fun _ => nofun, fun _ hk => ?_, fun _ => ?_, fun hh => absurd hh hfree⟩
    · cases hk
      simpa using hend
    · rcases hend with rfl | rfl | ⟨rfl, -⟩ <;> simp [State.raise]
  · obtain ⟨hunfair, hbusy, hslot⟩ := hend
    exact ⟨nofun, nofun, nofun, fun _ => ⟨(s.runPulse_env high low true).symm ▸ hunfair, hbusy, hslot,
      s.runPulse_status high low true, s.runPulse_rdata high low true⟩⟩

/-- Settles O46: each step of PULSE commutes with a change of `PWR`, `CFG` and `FB`. -/
theorem pulseIgnoresPowerAndMemory : Obligations.PulseIgnoresPowerAndMemory :=
  fun _ _ _ _ _ p v m h => exec_pulse_withPowerAndMemory p v m h

/-- Settles O48: the fields read at their places. -/
theorem statReportsControlState : Obligations.StatReportsControlState := by
  refine fun s => ⟨s.statData, rfl, ?_⟩
  have hbusy : s.txBusy.toNat * 2048 = if s.tx = .idle then 0 else 2048 := by cases h : s.tx <;> simp [State.txBusy, h]
  have hslot : s.slot.bit.toNat * 1024 = if s.slot = .present then 1024 else 0 := by cases s.slot <;> rfl
  rw [s.statData_toNat, hbusy, hslot]
  cases s.pwr <;> rfl

end Sys2Proof.Machine
end

section
/-! PROOFS. The power and panel family (43_power_and_panel_ops.md): how a power sequence stands at its end, how a schedule runs
and when it completes, and what FLUSH and REPAIR are made of. -/

namespace Sys2Proof.Machine

/-! ### Sequencing and the answer of a run -/

theorem Run.andThen_done_eq_self (r : Run) : r.andThen State.done = r := by
  obtain ⟨s, e⟩ := r
  cases e <;> rfl

theorem Run.andThen_assoc (r : Run) (f g : State → Run) :
    (r.andThen f).andThen g = r.andThen (fun t => (f t).andThen g) := by
  obtain ⟨s, e⟩ := r
  cases e <;> rfl

/-- A sequence that went through went through its first part, and is its second part run after it. -/
theorem Run.done_of_andThen_done {r : Run} {f : State → Run} (h : (r.andThen f).ending = .done) :
    r.ending = .done ∧ r.andThen f = f r.state := by
  rcases r.andThen_cases f with hdone | ⟨hstopped, e⟩
  · exact hdone
  · exact absurd (e ▸ h) hstopped

theorem Run.finish_of_done {r : Run} (h : r.ending = .done) : r.finish = r.state.respond .ok 0#56 := by
  rw [Run.finish, h]

theorem Run.finish_of_raised {r : Run} {k : ErrKind} (h : r.ending = .raised k) : r.finish = r.state.raise k := by
  rw [Run.finish, h]

@[simp] theorem Run.finish_commands (r : Run) : r.finish.commands = r.state.commands :=
  Run.finish_keeps (fun _ _ _ => rfl) (fun _ _ => rfl) r

/-- A command that is not held and responds `OK` has done all its steps. -/
theorem Run.done_of_finish_ok {r : Run} (hheld : r.finish.held = false) (hok : r.finish.status = .ok) :
    r.ending = .done := by
  rcases r.finish_cases with ⟨h, -⟩ | ⟨k, -, e⟩ | ⟨-, e⟩
  · exact h
  · rw [e] at hok; cases hok
  · rw [e] at hheld; cases hheld

/-! ### The power sequences (43_power_and_panel_ops.md R140 to R143) -/

/-- A run that goes through with `PWR` marked `p`, or ends at a failed write. -/
def Run.Marks (r : Run) (p : PowerState) : Prop :=
  (r.ending = .done ∧ r.state.pwr = p) ∨ r.ending = .raised .peripheralFailure

theorem Run.Marks.pwr_of_done {r : Run} {p : PowerState} (h : r.Marks p) (hdone : r.ending = .done) : r.state.pwr = p := by
  rcases h with ⟨-, hpwr⟩ | hraised
  · exact hpwr
  · rw [hdone] at hraised; cases hraised

/-- Such a run, answered `OK`, has marked `p` and done nothing more than respond. -/
theorem Run.Marks.finish_of_ok {r : Run} {p : PowerState} (h : r.Marks p) (hok : r.finish.status = .ok) :
    r.finish = r.state.respond .ok 0#56 ∧ r.finish.pwr = p := by
  rcases h with ⟨hdone, hpwr⟩ | hraised
  · exact ⟨Run.finish_of_done hdone, r.finish_pwr.trans hpwr⟩
  · rw [Run.finish_of_raised hraised] at hok
    cases hok

theorem enVolt_after_enPwr (v : Byte) : cfgByte .enVolt (cfgByte .enPwr v) = v ||| 0x1C#8 := BitVec.or_assoc v 0x04#8 0x18#8

theorem enOut_after_enVolt (v : Byte) : cfgByte .enOut (v ||| 0x1C#8) = v ||| 0x1D#8 := BitVec.or_assoc v 0x1C#8 0x01#8

theorem disVolt_after_disOut (v : Byte) : cfgByte .disVolt (cfgByte .disOut v) = v &&& 0xE6#8 := BitVec.and_assoc v 0xFE#8 0xE7#8

theorem disPwr_after_disVolt (v : Byte) : cfgByte .disPwr (v &&& 0xE6#8) = v &&& 0xE2#8 := BitVec.and_assoc v 0xE6#8 0xFB#8

/-- The run `r` of a power sequence from `s`, with the events `events`, the intents `v1`, `v2`, `v3` and the end state `p`, has
done `n` events: all 81 of them and the mark, or fewer and a failed write, which leaves `PWR` Pending. -/
structure State.Sequenced (s : State) (r : Run) (p : PowerState) (events : List Event) (v1 v2 v3 : Byte) (n : Nat) : Prop where
  commandTrace : r.state.commandTrace = s.commandTrace ++ events.take n
  receiver : r.state.receiver = s.receiver.replay (events.take n)
  cfg_mem : r.state.cfg ∈ [v1, v2, v3]
  faultIx_lt : s.faultIx < r.state.faultIx
  ends : (n = 81 ∧ r.ending = .done ∧ r.state.pwr = p ∧ r.state.cfg = v3 ∧ r.state.faultIx = s.faultIx + 78) ∨
    (n < 81 ∧ r.ending = .raised .peripheralFailure ∧ r.state.pwr = .pending ∧ ¬ s.NoFaultFor 78)

theorem threeWrites_sequenced (s : State) (c1 c2 c3 : CfgCommand) (m1 m2 m3 : Nat) (p : PowerState) :
    ∃ n, s.Sequenced (threeWrites { s with pwr := .pending } c1 c2 c3 m1 m2 m3 p) p
      (settledEvents (cfgByte c1 s.cfg) m1 ++ settledEvents (cfgByte c2 (cfgByte c1 s.cfg)) m2 ++
        settledEvents (cfgByte c3 (cfgByte c2 (cfgByte c1 s.cfg))) m3)
      (cfgByte c1 s.cfg) (cfgByte c2 (cfgByte c1 s.cfg)) (cfgByte c3 (cfgByte c2 (cfgByte c1 s.cfg))) n := by
  obtain ⟨n, htrace, hreceiver, ⟨hn, hdone, hpwr, hcfg, hix⟩ | ⟨hn, hraised, hpwr, hcfg, hix, hfault⟩⟩ :=
    threeWrites_spec { s with pwr := .pending } c1 c2 c3 m1 m2 m3 p
  · exact ⟨n, htrace, hreceiver, by simp [hcfg], by rw [hix]; exact Nat.lt_add_of_pos_right (by decide),
      .inl ⟨hn, hdone, hpwr, hcfg, hix⟩⟩
  · exact ⟨n, htrace, hreceiver, hcfg, hix, .inr ⟨hn, hraised, hpwr, hfault⟩⟩

/-- EVERYTHING POWER_ON can do where it is not a no-op. -/
theorem State.runPowerOn_sequenced {s : State} (h : s.pwr ≠ .on) :
    ∃ n, s.Sequenced s.runPowerOn .on (upEvents s.cfg) (s.cfg ||| 0x04#8) (s.cfg ||| 0x1C#8) (s.cfg ||| 0x1D#8) n := by
  have hseq := threeWrites_sequenced s .enPwr .enVolt .enOut 10 20 5 .on
  rw [← s.runPowerOn_eq h, ← upEvents_eq, enVolt_after_enPwr, enOut_after_enVolt] at hseq
  exact hseq

/-- EVERYTHING POWER_OFF can do where it is not a no-op. -/
theorem State.runPowerOff_sequenced {s : State} (h : s.pwr ≠ .off) :
    ∃ n, s.Sequenced s.runPowerOff .off (downEvents s.cfg) (s.cfg &&& 0xFE#8) (s.cfg &&& 0xE6#8) (s.cfg &&& 0xE2#8) n := by
  have hseq := threeWrites_sequenced s .disOut .disVolt .disPwr 5 20 10 .off
  rw [← s.runPowerOff_eq h, ← downEvents_eq, disVolt_after_disOut, disPwr_after_disVolt] at hseq
  exact hseq

section
variable {s : State} {r : Run} {p : PowerState} {events : List Event} {v1 v2 v3 : Byte} {n : Nat}

theorem State.Sequenced.marks (h : s.Sequenced r p events v1 v2 v3 n) : r.Marks p := by
  rcases h.ends with ⟨-, hdone, hpwr, -⟩ | ⟨-, hraised, -⟩
  · exact .inl ⟨hdone, hpwr⟩
  · exact .inr hraised

theorem State.Sequenced.cfg_of_done (h : s.Sequenced r p events v1 v2 v3 n) (hdone : r.ending = .done) : r.state.cfg = v3 := by
  rcases h.ends with ⟨-, -, -, hcfg, -⟩ | ⟨-, hraised, -⟩
  · exact hcfg
  · rw [hdone] at hraised; cases hraised

/-- How a power sequence is answered (R143). -/
theorem State.Sequenced.answer (h : s.Sequenced r p events v1 v2 v3 n) :
    ∃ st, r.finish = r.state.respond st 0#56 ∧
      ((st = .ok ∧ r.state.pwr = p ∧ n = 81) ∨ (st = .err .peripheralFailure ∧ r.state.pwr = .pending ∧ n < 81)) := by
  rcases h.ends with ⟨hn, hdone, hpwr, -⟩ | ⟨hn, hraised, hpwr, -⟩
  · exact ⟨.ok, Run.finish_of_done hdone, .inl ⟨rfl, hpwr, hn⟩⟩
  · exact ⟨.err .peripheralFailure, Run.finish_of_raised hraised, .inr ⟨rfl, hpwr, hn⟩⟩

/-- A sequence whose 78 samples are all 0 goes through (R140, R141). -/
theorem State.Sequenced.completed (h : s.Sequenced r p events v1 v2 v3 n) (hno : s.NoFaultFor 78) :
    n = 81 ∧ r.ending = .done ∧ r.state.pwr = p ∧ r.state.cfg = v3 ∧ r.state.faultIx = s.faultIx + 78 :=
  h.ends.resolve_right (fun ⟨_, _, _, hfault⟩ => hfault hno)

end

/-- The whole up sequence leaves the full intent in the receiver, whatever the lines held (R140). -/
theorem Receiver.replay_upEvents (r : Receiver) (v : Byte) :
    r.replay (upEvents v) = ⟨true, true, true, v ||| 0x1D#8, v ||| 0x1D#8⟩ := by
  rw [upEvents, Receiver.replay_append, Receiver.replay_append, Receiver.replay_writeEvents]
  simp [Receiver.replay, Receiver.react]

/-- The whole down sequence leaves the cleared intent in the receiver (R141). -/
theorem Receiver.replay_downEvents (r : Receiver) (v : Byte) :
    r.replay (downEvents v) = ⟨false, true, true, v &&& 0xE2#8, v &&& 0xE2#8⟩ := by
  rw [downEvents, Receiver.replay_append, Receiver.replay_append, Receiver.replay_writeEvents]
  simp [Receiver.replay, Receiver.react]

theorem State.runPowerOn_of_on {s : State} (h : s.pwr = .on) : s.runPowerOn = s.done := by rw [State.runPowerOn, h]

theorem State.runPowerOff_of_off {s : State} (h : s.pwr = .off) : s.runPowerOff = s.done := by rw [State.runPowerOff, h]

theorem exec_powerOn (s : State) : exec .powerOn s = .next s.runPowerOn.finish := rfl

theorem exec_powerOff (s : State) : exec .powerOff s = .next s.runPowerOff.finish := rfl

theorem exec_powerOn_of_on {s : State} (h : s.pwr = .on) : exec .powerOn s = .next (s.respond .ok 0#56) := by
  rw [exec_powerOn, State.runPowerOn_of_on h]
  rfl

theorem exec_powerOff_of_off {s : State} (h : s.pwr = .off) : exec .powerOff s = .next (s.respond .ok 0#56) := by
  rw [exec_powerOff, State.runPowerOff_of_off h]
  rfl

theorem State.runPowerOn_marks (s : State) : s.runPowerOn.Marks .on := by
  by_cases h : s.pwr = .on
  · rw [State.runPowerOn_of_on h]
    exact .inl ⟨rfl, h⟩
  · obtain ⟨n, hseq⟩ := State.runPowerOn_sequenced h
    exact hseq.marks

theorem State.runPowerOff_marks (s : State) : s.runPowerOff.Marks .off := by
  by_cases h : s.pwr = .off
  · rw [State.runPowerOff_of_off h]
    exact .inl ⟨rfl, h⟩
  · obtain ⟨n, hseq⟩ := State.runPowerOff_sequenced h
    exact hseq.marks

/-- A POWER_OFF that goes through from On leaves the panel Off with every named bit of `CFG` clear (R141). -/
theorem State.runPowerOff_clears {s : State} (hon : s.pwr = .on) (h : s.runPowerOff.ending = .done) :
    s.runPowerOff.state.pwr = .off ∧ s.runPowerOff.state.cfg &&& 0x1D#8 = 0#8 := by
  obtain ⟨n, hseq⟩ := State.runPowerOff_sequenced (s := s) (by simp [hon])
  refine ⟨s.runPowerOff_marks.pwr_of_done h, ?_⟩
  rw [hseq.cfg_of_done h, BitVec.and_assoc]
  exact BitVec.and_zero

/-! #### While the transmitter is idle a power sequence draws nothing (42_pulse_ops.md R126) -/

theorem State.txSteps_of_idle {s : State} (h : s.tx = .idle) (n : Nat) : State.txSteps n s = s := by
  induction n with
  | zero => rfl
  | succ n ih => rw [State.txSteps, State.txStep_of_idle h, ih]

theorem State.TxMoved.of_idle {s t : State} (h : s.TxMoved t) (hidle : s.tx = .idle) : t.tx = .idle ∧ t.pls = s.pls := by
  obtain ⟨n, htx, hpls⟩ := h
  rw [State.txSteps_of_idle hidle] at htx hpls
  exact ⟨htx.trans hidle, hpls⟩

theorem State.QuietTo.trans {s t u : State} (h : s.QuietTo t) (h' : t.QuietTo u) : s.QuietTo u := by
  obtain ⟨l, htrace, hl⟩ := h.trace
  obtain ⟨l', htrace', hl'⟩ := h'.trace
  exact ⟨h'.idle, h'.txIx.trans h.txIx, l ++ l', by rw [htrace', htrace, List.append_assoc],
    by rw [List.filter_append, hl, hl']⟩

theorem State.settle_quietTo {s : State} (h : s.tx = .idle) (ms : Nat) : s.QuietTo (s.settle ms) := by
  rw [State.settle, State.yield_of_idle h]
  exact ⟨h, rfl, [.settle ms], rfl, rfl⟩

theorem State.writeAndSettle_quietTo {s : State} (h : s.tx = .idle) (c : CfgCommand) (ms : Nat) :
    s.QuietTo (s.writeAndSettle c ms).state :=
  Run.andThen_keeps (State.runCfg_quietTo h c) (fun _ ht => ht.trans (State.settle_quietTo ht.idle ms))

theorem threeWrites_quietTo {s : State} (h : s.tx = .idle) (c1 c2 c3 : CfgCommand) (m1 m2 m3 : Nat) (p : PowerState) :
    s.QuietTo (threeWrites s c1 c2 c3 m1 m2 m3 p).state := by
  have htwo : s.QuietTo ((s.writeAndSettle c1 m1).andThen (fun t => t.writeAndSettle c2 m2)).state :=
    Run.andThen_keeps (State.writeAndSettle_quietTo h c1 m1)
      (fun _ ht => ht.trans (State.writeAndSettle_quietTo ht.idle c2 m2))
  refine Run.andThen_keeps htwo (fun t ht => ?_)
  exact Run.andThen_keeps (ht.trans (State.writeAndSettle_quietTo ht.idle c3 m3))
    (fun _ hu => ⟨hu.idle, hu.txIx, hu.trace⟩)

/-! ### Schedules (43_power_and_panel_ops.md R146, R147) -/

theorem State.runSched_append (s : State) (a b : List SchedStep) :
    s.runSched (a ++ b) = (s.runSched a).andThen (fun t => t.runSched b) := by
  induction a generalizing s with
  | nil => rfl
  | cons st a ih =>
    calc s.runSched (st :: (a ++ b))
      _ = (s.yield.runStep st).andThen (fun t => (t.runSched a).andThen (fun u => u.runSched b)) :=
        congrArg (Run.andThen _) (funext ih)
      _ = (s.runSched (st :: a)).andThen (fun u => u.runSched b) := (Run.andThen_assoc _ _ _).symm

theorem State.runSched_singleton (s : State) (st : SchedStep) : s.runSched [st] = s.yield.runStep st :=
  Run.andThen_done_eq_self _

theorem State.byteAt_congr {s t : State} (h : t.fb = s.fb) (a : Nat) : t.byteAt a = s.byteAt a := by
  simp [State.byteAt, h]

theorem exec_flush (mode : DrawMode) (s : State) : exec (.flush mode) s = .next (s.runFlush mode).finish := rfl

theorem State.runFlush_of_on {s : State} (h : s.pwr = .on) (mode : DrawMode) :
    s.runFlush mode = s.runSched (Config.flushSched s.env.geom mode s.fbContents) := by
  rw [State.runFlush, h]

theorem State.runFlush_of_not_on {s : State} (h : s.pwr ≠ .on) (mode : DrawMode) : s.runFlush mode = s.fail .hardware := by
  unfold State.runFlush
  split
  · contradiction
  · rfl

/-! #### What completes without a fault (10_state.md R30) -/

theorem State.noFaultFor_of_noFaults {s : State} (h : s.env.noFaults = true) (n : Nat) : s.NoFaultFor n :=
  fun _ _ => by simp [State.faultAt, h]

theorem State.runCfg_done_of_noFaults {s : State} (h : s.env.noFaults = true) (c : CfgCommand) :
    (s.runCfg c).ending = .done := by
  have hstop : ({ s with cfg := cfgByte c s.cfg } : State).WriteStopsAt 26 :=
    ⟨Nat.le_refl _, State.noFaultFor_of_noFaults h 26, fun hlt => absurd hlt (Nat.lt_irrefl _)⟩
  exact (hstop.shiftOut _).2

theorem State.runPowerOn_done_of_noFaults {s : State} (h : s.env.noFaults = true) : s.runPowerOn.ending = .done := by
  by_cases hon : s.pwr = .on
  · rw [State.runPowerOn_of_on hon]; rfl
  · obtain ⟨n, hseq⟩ := State.runPowerOn_sequenced hon
    obtain ⟨-, hdone, -⟩ := hseq.completed (State.noFaultFor_of_noFaults h 78)
    exact hdone

theorem State.runPowerOff_done_of_noFaults {s : State} (h : s.env.noFaults = true) : s.runPowerOff.ending = .done := by
  by_cases hoff : s.pwr = .off
  · rw [State.runPowerOff_of_off hoff]; rfl
  · obtain ⟨n, hseq⟩ := State.runPowerOff_sequenced hoff
    obtain ⟨-, hdone, -⟩ := hseq.completed (State.noFaultFor_of_noFaults h 78)
    exact hdone

/-- A step that is no pulse completes whatever the transmitter does. -/
theorem State.runStep_done_of_noPulse {s : State} {st : SchedStep} (hst : isPulseStep st = false)
    (h : s.env.noFaults = true) : (s.runStep st).ending = .done := by
  cases st with
  | pulse high low wait hne => cases hst
  | cfg c => exact State.runCfg_done_of_noFaults h c
  | settle ms => rfl
  | bus tag =>
    have hfault : s.fault = false := State.noFaultFor_of_noFaults h 1 0 Nat.one_pos
    rw [State.runStep, State.unlessFault_of_noFault hfault]
    rfl

/-- A step that is no pulse moves the transmission by transmitter steps only. -/
theorem State.runStep_txMoved_of_noPulse {s : State} {st : SchedStep} (hst : isPulseStep st = false) :
    s.TxMoved (s.runStep st).state := by
  cases st with
  | pulse high low wait hne => cases hst
  | cfg c => exact s.runCfg_txMoved c
  | settle ms => exact s.yield_txMoved.trans (.of_same rfl rfl)
  | bus tag => exact State.unlessFault_keeps (R := s.TxMoved) (.of_same rfl rfl) (fun hu => hu.trans (.of_same rfl rfl))

/-- A pulse from an idle transmitter completes under fairness. -/
theorem State.runPulse_done_of_idle {s : State} (h : s.env.noFaults = true) (hfair : s.env.fairTx = true)
    (hidle : s.tx = .idle) (high low : BitVec 16) (wait : Bool) : (s.runPulse high low wait).ending = .done := by
  rw [State.runPulse_of_start hidle (State.noFaultFor_of_noFaults h _)]
  cases wait with
  | false => rfl
  | true =>
    have hrelease : (s.started (buildSegs high low)).fault = false :=
      State.noFaultFor_of_noFaults (s := s.started _) h 1 0 Nat.one_pos
    rw [if_pos rfl, State.waitAndReclaim_of_noFault (s := s.started _) hfair rfl hrelease]
    rfl

/-- From an idle transmitter every step of a schedule completes under fairness. -/
theorem State.runStep_done_of_idle {s : State} (h : s.env.noFaults = true) (hfair : s.env.fairTx = true)
    (hidle : s.tx = .idle) (st : SchedStep) : (s.runStep st).ending = .done := by
  cases hst : isPulseStep st with
  | false => exact State.runStep_done_of_noPulse hst h
  | true =>
    cases st with
    | pulse high low wait hne => exact State.runPulse_done_of_idle h hfair hidle high low wait
    | _ => cases hst

/-- Every step but a non-waiting pulse leaves an idle transmitter idle where it completes. -/
theorem State.runStep_idle {s : State} (hidle : s.tx = .idle) {st : SchedStep} (hst : isNonWaitingStep st = false)
    (hdone : (s.runStep st).ending = .done) : (s.runStep st).state.tx = .idle := by
  cases hpulse : isPulseStep st with
  | false => exact ((State.runStep_txMoved_of_noPulse hpulse).of_idle hidle).1
  | true =>
    cases st with
    | pulse high low wait hne =>
      obtain rfl : wait = true := by simpa [isNonWaitingStep] using hst
      have hend := s.runPulse_waitEnd high low
      rw [Run.WaitEnd, show (s.runPulse high low true).ending = .done from hdone] at hend
      exact hend.1
    | _ => cases hpulse

theorem State.runSched_cons_of_done {s : State} {st : SchedStep} (h : (s.yield.runStep st).ending = .done)
    (l : List SchedStep) : s.runSched (st :: l) = (s.yield.runStep st).state.runSched l := Run.andThen_of_done h _

/-- A schedule without a pulse completes whatever the transmitter does. -/
theorem State.runSched_done_of_noPulse {s : State} {l : List SchedStep} (hl : l.all (fun st => !isPulseStep st) = true)
    (h : s.env.noFaults = true) : (s.runSched l).ending = .done := by
  induction l generalizing s with
  | nil => rfl
  | cons st l ih =>
    simp only [List.all_cons, Bool.and_eq_true, Bool.not_eq_true'] at hl
    obtain ⟨hst, hrest⟩ := hl
    rw [State.runSched_cons_of_done (State.runStep_done_of_noPulse hst (by simpa using h))]
    exact ih hrest (by simpa using h)

/-- Where no pulse comes after a non-waiting one, a schedule completes (R147): up to the non-waiting pulse every step leaves the
transmitter idle for the next, and after it nothing needs an idle transmitter. -/
theorem State.runSched_done_of_safe {s : State} {l : List SchedStep} (hsafe : noPulseAfterNonWaiting l = true)
    (h : s.env.noFaults = true) (hfair : s.env.fairTx = true) (hidle : s.tx = .idle) : (s.runSched l).ending = .done := by
  induction l generalizing s with
  | nil => rfl
  | cons st l ih =>
    simp only [noPulseAfterNonWaiting, Bool.and_eq_true, Bool.or_eq_true, Bool.not_eq_true'] at hsafe
    obtain ⟨hhead, htail⟩ := hsafe
    have hdone : (s.runStep st).ending = .done := State.runStep_done_of_idle h hfair hidle st
    have hrun := State.runSched_cons_of_done (s := s) (st := st) (by rwa [State.yield_of_idle hidle]) l
    rw [State.yield_of_idle hidle] at hrun
    rw [hrun]
    rcases hhead with hwaits | hnoPulse
    · exact ih htail (by simpa using h) (by simpa using hfair) (State.runStep_idle hidle hwaits hdone)
    · exact State.runSched_done_of_noPulse hnoPulse (by simpa using h)

/-! ### REPAIR (43_power_and_panel_ops.md R149, R150) -/

section
variable {s : State} {l : List SchedStep}

theorem State.runRepairWith_of_powerOn_stopped (h : s.runPowerOn.ending ≠ .done) : s.runRepairWith l = s.runPowerOn := by
  rw [State.runRepairWith, Run.andThen_of_stopped h, Run.andThen_of_stopped h]

theorem State.runRepairWith_of_passes_stopped (hon : s.runPowerOn.ending = .done)
    (h : (s.runPowerOn.state.runSched l).ending ≠ .done) : s.runRepairWith l = s.runPowerOn.state.runSched l := by
  rw [State.runRepairWith, Run.andThen_of_done hon, Run.andThen_of_stopped h]

theorem State.runRepairWith_of_passes_done (hon : s.runPowerOn.ending = .done)
    (h : (s.runPowerOn.state.runSched l).ending = .done) :
    s.runRepairWith l = (s.runPowerOn.state.runSched l).state.runPowerOff := by
  rw [State.runRepairWith, Run.andThen_of_done hon, Run.andThen_of_done h]

/-- A REPAIR that goes through leaves the panel Off with every named bit of `CFG` clear: its passes begin and end On. -/
theorem State.runRepairWith_clears (h : (s.runRepairWith l).ending = .done) :
    (s.runRepairWith l).state.pwr = .off ∧ (s.runRepairWith l).state.cfg &&& 0x1D#8 = 0#8 := by
  obtain ⟨hpasses, hoff⟩ := Run.done_of_andThen_done h
  obtain ⟨hon, hsched⟩ := Run.done_of_andThen_done hpasses
  rw [hsched] at hpasses
  have hrun := State.runRepairWith_of_passes_done hon hpasses
  have hpwr : (s.runPowerOn.state.runSched l).state.pwr = .on :=
    (State.runSched_pwr _ l).trans (s.runPowerOn_marks.pwr_of_done hon)
  rw [hrun] at h ⊢
  exact State.runPowerOff_clears hpwr h

/-- With safe passes REPAIR completes from every power state (R147, R150). -/
theorem State.runRepairWith_done_of_safe (hsafe : noPulseAfterNonWaiting l = true) (h : s.env.noFaults = true)
    (hfair : s.env.fairTx = true) (hidle : s.tx = .idle) : (s.runRepairWith l).ending = .done := by
  have hon : s.runPowerOn.ending = .done := State.runPowerOn_done_of_noFaults h
  have hpasses : (s.runPowerOn.state.runSched l).ending = .done :=
    State.runSched_done_of_safe hsafe (by simpa using h) (by simpa using hfair) (s.runPowerOn_txMoved.of_idle hidle).1
  rw [State.runRepairWith_of_passes_done hon hpasses]
  exact State.runPowerOff_done_of_noFaults (by simpa using h)

end

/-! ### The obligations -/

/-- Settles O49: the 78 samples let the whole up sequence through. -/
theorem powerOnRunsTheUpSequence : Obligations.PowerOnRunsTheUpSequence := by
  refine fun s => ⟨exec_powerOn_of_on, fun hp hno => ?_⟩
  obtain ⟨n, hseq⟩ := State.runPowerOn_sequenced hp
  obtain ⟨rfl, hdone, hpwr, hcfg, hix⟩ := hseq.completed hno
  have hreceiver := hseq.receiver.trans (s.receiver.replay_upEvents s.cfg)
  have hexec : exec .powerOn s = .next (s.runPowerOn.state.respond .ok 0#56) := by
    rw [exec_powerOn, Run.finish_of_done hdone]
  refine ⟨_, hexec, hpwr, hcfg, (congrArg Receiver.sr hreceiver).trans hcfg.symm,
    (congrArg Receiver.q hreceiver).trans hcfg.symm, congrArg Receiver.stb hreceiver, congrArg Receiver.clk hreceiver,
    congrArg Receiver.data hreceiver, rfl, rfl, hix, hseq.commandTrace, s.runPowerOn_env, s.runPowerOn_commands,
    s.runPowerOn_held, s.runPowerOn_fb, s.runPowerOn_slot, s.runPowerOn_prog, s.runPowerOn_txMoved, fun hidle => ?_⟩
  obtain ⟨htx, hpls⟩ := s.runPowerOn_txMoved.of_idle hidle
  refine ⟨htx, hpls, ?_⟩
  rw [s.runPowerOn_eq hp]
  exact (threeWrites_quietTo (s := { s with pwr := .pending }) hidle _ _ _ _ _ _ _).txIx

/-- Settles O50: the 78 samples let the whole down sequence through. -/
theorem powerOffRunsTheDownSequence : Obligations.PowerOffRunsTheDownSequence := by
  refine fun s => ⟨exec_powerOff_of_off, fun hp hno => ?_⟩
  obtain ⟨n, hseq⟩ := State.runPowerOff_sequenced hp
  obtain ⟨rfl, hdone, hpwr, hcfg, hix⟩ := hseq.completed hno
  have hreceiver := hseq.receiver.trans (s.receiver.replay_downEvents s.cfg)
  have hexec : exec .powerOff s = .next (s.runPowerOff.state.respond .ok 0#56) := by
    rw [exec_powerOff, Run.finish_of_done hdone]
  refine ⟨_, hexec, hpwr, hcfg, (congrArg Receiver.sr hreceiver).trans hcfg.symm,
    (congrArg Receiver.q hreceiver).trans hcfg.symm, congrArg Receiver.stb hreceiver, congrArg Receiver.clk hreceiver,
    congrArg Receiver.data hreceiver, rfl, rfl, hix, hseq.commandTrace, s.runPowerOff_env, s.runPowerOff_commands,
    s.runPowerOff_held, s.runPowerOff_fb, s.runPowerOff_slot, s.runPowerOff_prog, s.runPowerOff_txMoved, fun hidle => ?_⟩
  obtain ⟨htx, hpls⟩ := s.runPowerOff_txMoved.of_idle hidle
  refine ⟨htx, hpls, ?_⟩
  rw [s.runPowerOff_eq hp]
  exact (threeWrites_quietTo (s := { s with pwr := .pending }) hidle _ _ _ _ _ _ _).txIx

/-- Settles O51: `OK` comes with the mark, and with the mark the command only responds. -/
theorem powerCommandsAreIdempotent : Obligations.PowerCommandsAreIdempotent := by
  refine fun s t => ⟨exec_powerOn_of_on, exec_powerOff_of_off, fun hok hexec => ?_, fun hok hexec => ?_⟩
  · obtain rfl : s.runPowerOn.finish = t := Host.Outcome.next.inj hexec
    obtain ⟨hfinish, hpwr⟩ := s.runPowerOn_marks.finish_of_ok hok
    rw [exec_powerOn_of_on hpwr, hfinish]
    rfl
  · obtain rfl : s.runPowerOff.finish = t := Host.Outcome.next.inj hexec
    obtain ⟨hfinish, hpwr⟩ := s.runPowerOff_marks.finish_of_ok hok
    rw [exec_powerOff_of_off hpwr, hfinish]
    rfl

/-- Settles O52: both sequences stand at their end as three writes can stand. -/
theorem failedSequenceLeavesPending : Obligations.FailedSequenceLeavesPending := by
  refine fun s => ⟨fun hp => ?_, fun hp => ?_⟩
  · obtain ⟨n, hseq⟩ := State.runPowerOn_sequenced hp
    obtain ⟨st, hfinish, hends⟩ := hseq.answer
    rw [exec_powerOn, hfinish]
    exact ⟨_, n, rfl, rfl, hseq.commandTrace, hends, hseq.faultIx_lt, hseq.cfg_mem, s.runPowerOn_fb,
      s.runPowerOn_slot, s.runPowerOn_prog, s.runPowerOn_held, s.runPowerOn_txMoved⟩
  · obtain ⟨n, hseq⟩ := State.runPowerOff_sequenced hp
    obtain ⟨st, hfinish, hends⟩ := hseq.answer
    rw [exec_powerOff, hfinish]
    exact ⟨_, n, rfl, rfl, hseq.commandTrace, hends, hseq.faultIx_lt, hseq.cfg_mem, s.runPowerOff_fb,
      s.runPowerOff_slot, s.runPowerOff_prog, s.runPowerOff_held, s.runPowerOff_txMoved⟩

/-- Settles O55: no step of a schedule or of a power sequence writes the framebuffer, and a completed REPAIR has run its
POWER_OFF from On. -/
theorem flushAndRepairKeepTheFramebuffer : Obligations.FlushAndRepairKeepTheFramebuffer := by
  refine fun s => ⟨fun mode => ?_, ?_⟩
  · have hfb : (s.runFlush mode).finish.fb = s.fb := by simp
    exact ⟨_, rfl, hfb, by simp, by simp, by simp, State.byteAt_congr hfb⟩
  · have hfb : (s.runRepairWith (Config.repairSched s.env.geom)).finish.fb = s.fb := by simp
    refine ⟨_, rfl, hfb, by simp, by simp, State.byteAt_congr hfb, fun hheld hok => ?_⟩
    rw [Run.finish_pwr, Run.finish_cfg]
    exact State.runRepairWith_clears (Run.done_of_finish_ok hheld hok)

/-- Settles O56: the run of a concatenation is the run of its first part, then of its second. -/
theorem schedulesRunInOrder : Obligations.SchedulesRunInOrder := by
  refine fun s a b => ⟨fun hdone => ?_, fun hstopped => ?_⟩ <;> rw [State.runSched_append]
  · exact Run.andThen_of_done hdone _
  · exact Run.andThen_of_stopped hstopped _

/-- Settles O58, by induction over the schedule. -/
theorem safeSchedulesComplete : Obligations.SafeSchedulesComplete :=
  fun _ _ hsafe hno hfair hidle => State.runSched_done_of_safe hsafe hno hfair hidle

/-- Settles O59: the parts of REPAIR one after another, each of them complete where the passes are safe. -/
theorem repairManagesItsOwnPower : Obligations.RepairManagesItsOwnPower := by
  refine fun s => ⟨rfl, fun _ => State.runRepairWith_of_powerOn_stopped, fun _ => State.runRepairWith_of_passes_stopped,
    fun _ => State.runRepairWith_of_passes_done, rfl, rfl, fun l hsafe hno hfair hidle => ?_⟩
  have hdone : (s.runRepairWith l).ending = .done := State.runRepairWith_done_of_safe hsafe hno hfair hidle
  exact ⟨hdone, State.runRepairWith_clears hdone⟩

/-- Settles O54: the power check comes first, and past it FLUSH is its schedule. -/
theorem flushNeedsPower : Obligations.FlushNeedsPower := by
  refine fun mode s => ⟨fun hp => ?_, fun hp => ?_⟩
  · rw [exec_flush, State.runFlush_of_not_on hp]
    rfl
  · rw [exec_flush, State.runFlush_of_on hp]
    rfl

/-- Settles O57, step by step of the table. -/
theorem scheduleStepsFollowTheirTable : Obligations.ScheduleStepsFollowTheirTable := by
  refine fun s => ⟨s.runSched_singleton, fun high low wait hne => ⟨rfl, exec_pulse hne wait s⟩,
    fun c => ⟨rfl, exec_cfgInstr c s⟩, fun ms => ⟨rfl, s.yield_faultIx⟩,
    fun tag => ⟨fun hfault => ?_, fun hfault => ?_⟩⟩
  · rw [State.runStep, State.unlessFault_of_fault hfault]; rfl
  · rw [State.runStep, State.unlessFault_of_noFault hfault]; rfl

end Sys2Proof.Machine
end

section
/-! PROOFS. The exceptions family (60_exceptions.md): the error kinds a run of hardware steps can raise, from one line
operation up to a schedule, and those a command can report (R161, R162). -/

namespace Sys2Proof.Machine

section Kinds

variable {ks ls : List ErrKind}

/-! ### The kinds a run of hardware steps can raise -/

/-- If the run raises, then one of the kinds `ks`. -/
def Run.RaisesOnly (r : Run) (ks : List ErrKind) : Prop := ∀ k, r.ending = .raised k → k ∈ ks

theorem Run.RaisesOnly.mono {r : Run} (h : r.RaisesOnly ks) (hsub : ks ⊆ ls) : r.RaisesOnly ls :=
  fun k hk => hsub (h k hk)

theorem Run.raisesOnly_of_done {r : Run} (h : r.ending = .done) : r.RaisesOnly ks :=
  fun _ hk => nomatch h.symm.trans hk

theorem Run.raisesOnly_of_raised {r : Run} {k : ErrKind} (h : r.ending = .raised k) (hk : k ∈ ks) : r.RaisesOnly ks :=
  fun _ hk' => Ending.raised.inj (h.symm.trans hk') ▸ hk

theorem Run.raisesOnly_of_held {r : Run} (h : r.ending = .held) : r.RaisesOnly ks :=
  fun _ hk => nomatch h.symm.trans hk

/-- A sequence raises what one of its two parts raises. -/
theorem Run.RaisesOnly.andThen {r : Run} {f : State → Run} (hr : r.RaisesOnly ks) (hf : ∀ t, (f t).RaisesOnly ks) :
    (r.andThen f).RaisesOnly ks := by
  rcases r.andThen_cases f with ⟨-, e⟩ | ⟨-, e⟩ <;> rw [e]
  · exact hf _
  · exact hr

/-- An operation guarded by the fault input raises the kind of its guard or what the operation raises. -/
theorem State.unlessFault_raisesOnly {s : State} {k : ErrKind} {f : State → Run} (hk : k ∈ ks)
    (hf : ∀ t, (f t).RaisesOnly ks) : (s.unlessFault k f).RaisesOnly ks := by
  rcases s.unlessFault_cases k f with ⟨-, e⟩ | ⟨-, e⟩ <;> rw [e]
  · exact hf _
  · exact Run.raisesOnly_of_raised rfl hk

theorem State.runCfg_raisesOnly (s : State) (c : CfgCommand) : (s.runCfg c).RaisesOnly [.peripheralFailure] := by
  obtain ⟨k, -, -, -, -, ⟨-, hdone, -⟩ | ⟨-, -, hraised, -⟩⟩ :=
    State.shiftOut_spec { s with cfg := cfgByte c s.cfg } (cfgByte c s.cfg)
  · exact Run.raisesOnly_of_done hdone
  · exact Run.raisesOnly_of_raised hraised (List.mem_singleton_self _)

theorem Run.Refused.raisesOnly {r : Run} (h : r.Refused) : r.RaisesOnly [.channelOwnership, .peripheralFailure] := by
  rcases h with h | h <;> exact Run.raisesOnly_of_raised h (by decide)

theorem State.acquire_raisesOnly (s : State) : s.acquire.RaisesOnly [.channelOwnership, .peripheralFailure] :=
  s.acquire_ends.elim Run.raisesOnly_of_done Run.Refused.raisesOnly

theorem State.start_raisesOnly (s : State) (segs : List Seg) :
    (s.start segs).RaisesOnly [.channelOwnership, .peripheralFailure] :=
  (s.start_ends segs).elim (fun ⟨hdone, _⟩ => Run.raisesOnly_of_done hdone) Run.Refused.raisesOnly

/-- Waiting raises nothing; the release afterwards is the one step that raises `Internal` (42_pulse_ops.md R128). -/
theorem State.waitAndReclaim_raisesOnly (s : State) : s.waitAndReclaim.RaisesOnly [.internal] := by
  have hwait : s.waitIdle.RaisesOnly [.internal] := by
    rcases s.waitIdle_cases with ⟨hdone, -⟩ | ⟨hheld, -⟩
    · exact Run.raisesOnly_of_done hdone
    · exact Run.raisesOnly_of_held hheld
  exact hwait.andThen fun _ => State.unlessFault_raisesOnly (List.mem_singleton_self _) fun _ => Run.raisesOnly_of_done rfl

/-- PULSE, step by step: Acquire and Start can be refused, and only a waiting pulse comes to the release. -/
theorem State.runPulse_raisesOnly (s : State) (high low : BitVec 16) (wait : Bool) :
    (s.runPulse high low wait).RaisesOnly (mayRaise (.pulse high low wait)) := by
  have hrow : [.channelOwnership, .peripheralFailure] ⊆ mayRaise (.pulse high low wait) := by
    cases wait <;> simp [mayRaise]
  refine (s.acquire_raisesOnly.mono hrow).andThen fun t =>
    ((t.build high low).start_raisesOnly _ |>.mono hrow).andThen fun u => ?_
  cases wait with
  | true => exact u.waitAndReclaim_raisesOnly.mono (by simp [mayRaise])
  | false => exact Run.raisesOnly_of_done rfl

theorem Run.Marks.raisesOnly {r : Run} {p : PowerState} (h : r.Marks p) : r.RaisesOnly [.peripheralFailure] := by
  rcases h with ⟨hdone, -⟩ | hraised
  · exact Run.raisesOnly_of_done hdone
  · exact Run.raisesOnly_of_raised hraised (List.mem_singleton_self _)

theorem State.runStep_raisesOnly (s : State) (st : SchedStep) : (s.runStep st).RaisesOnly (mayRaise .repair) := by
  cases st with
  | pulse high low wait tag => exact (s.runPulse_raisesOnly high low wait).mono (by cases wait <;> simp [mayRaise])
  | cfg c => exact (s.runCfg_raisesOnly c).mono (by simp [mayRaise])
  | settle ms => exact Run.raisesOnly_of_done rfl
  | bus tag => exact State.unlessFault_raisesOnly (by decide) fun _ => Run.raisesOnly_of_done rfl

/-- A schedule raises what its steps raise, whatever its contents. -/
theorem State.runSched_raisesOnly (s : State) (l : List SchedStep) : (s.runSched l).RaisesOnly (mayRaise .repair) := by
  induction l generalizing s with
  | nil => exact Run.raisesOnly_of_done rfl
  | cons st l ih => exact (s.yield.runStep_raisesOnly st).andThen ih

theorem State.runRepairWith_raisesOnly (s : State) (l : List SchedStep) :
    (s.runRepairWith l).RaisesOnly (mayRaise .repair) := by
  have hpower : [.peripheralFailure] ⊆ mayRaise .repair := by simp [mayRaise]
  exact ((s.runPowerOn_marks.raisesOnly.mono hpower).andThen fun t => t.runSched_raisesOnly l).andThen
    fun t => t.runPowerOff_marks.raisesOnly.mono hpower

/-- FLUSH adds the power check to its schedule (43_power_and_panel_ops.md R145). -/
theorem State.runFlush_raisesOnly (s : State) (mode : DrawMode) : (s.runFlush mode).RaisesOnly (mayRaise (.flush mode)) := by
  by_cases hp : s.pwr = .on
  · rw [State.runFlush_of_on hp]
    exact (s.runSched_raisesOnly _).mono (by simp [mayRaise])
  · rw [State.runFlush_of_not_on hp]
    exact Run.raisesOnly_of_raised rfl (List.mem_cons_self ..)

/-! ### The kinds a command can report -/

/-- If the command completes with an error, then of one of the kinds `ks`. -/
def ReportsOnly (r : Result) (ks : List ErrKind) : Prop :=
  ∀ t k, r = .next t → t.held = false → t.status = .err k → k ∈ ks

theorem reportsOnly_ok (s : State) (d : BitVec 56) : ReportsOnly (.next (s.respond .ok d)) ks := by
  intro t k ht _ hst
  obtain rfl := Host.Outcome.next.inj ht
  cases hst

theorem reportsOnly_raise (s : State) {k : ErrKind} (hk : k ∈ ks) : ReportsOnly (.next (s.raise k)) ks := by
  intro t k' ht _ hst
  obtain rfl := Host.Outcome.next.inj ht
  exact Status.err.inj hst ▸ hk

theorem reportsOnly_fault (f : Fault) : ReportsOnly (.fault f) ks := fun _ _ ht => nomatch ht

theorem reportsOnly_completed (r : Except Fault State) : ReportsOnly (completed r) ks := by
  cases r with
  | ok s => exact reportsOnly_ok s _
  | error f => exact reportsOnly_fault f

/-- A finished run reports what it raises; a held one has not completed. -/
theorem Run.RaisesOnly.reportsOnly {r : Run} (h : r.RaisesOnly ks) : ReportsOnly (.next r.finish) ks := by
  rcases r.finish_cases with ⟨-, e⟩ | ⟨k, hk, e⟩ | ⟨-, e⟩ <;> rw [e]
  · exact reportsOnly_ok _ _
  · exact reportsOnly_raise _ (h k hk)
  · intro t _ ht hheld
    obtain rfl := Host.Outcome.next.inj ht
    cases hheld

theorem State.drawAt_reportsOnly (s : State) (x y : Int) (level : BitVec 8) (hcolor : .invalidColor ∈ ks) :
    ReportsOnly (s.drawAt x y level) ks := by
  unfold State.drawAt
  split
  · exact reportsOnly_completed _
  · exact reportsOnly_raise s hcolor

theorem execSetPixel_reportsOnly (x y : BitVec 12) (level : BitVec 8) (s : State) :
    ReportsOnly (execSetPixel x y level s) [.outOfBounds, .invalidColor] := by
  unfold execSetPixel
  split
  · exact s.drawAt_reportsOnly _ _ level (by decide)
  · exact reportsOnly_raise s (by decide)

theorem execGetPixel_reportsOnly (x y : BitVec 12) (s : State) : ReportsOnly (execGetPixel x y s) [.outOfBounds] := by
  unfold execGetPixel
  split
  · split
    · exact reportsOnly_ok s _
    · exact reportsOnly_fault _
  · exact reportsOnly_raise s (by decide)

theorem execFill_reportsOnly (level : BitVec 8) (s : State) : ReportsOnly (execFill level s) [.invalidColor] := by
  unfold execFill
  split
  · exact reportsOnly_ok _ _
  · exact reportsOnly_raise s (by decide)

theorem execFillRect_reportsOnly (x y w h : BitVec 12) (level : BitVec 8) (s : State) :
    ReportsOnly (execFillRect x y w h level s) [.outOfBounds, .invalidColor] := by
  unfold execFillRect
  split
  · split
    · exact reportsOnly_completed _
    · exact reportsOnly_raise s (by decide)
  · exact reportsOnly_raise s (by decide)

theorem execDrawPixel_reportsOnly (x y : BitVec 12) (level : BitVec 8) (s : State) :
    ReportsOnly (execDrawPixel x y level s) [.invalidColor] := by
  unfold execDrawPixel
  split
  · exact s.drawAt_reportsOnly _ _ level (by decide)
  · exact reportsOnly_ok s _

end Kinds

/-- A well-formed command reports no kind but those of its row. The reserved operands of PULSE are excluded because that term
answers `IllegalCommand` (30_encoding.md R70). -/
theorem exec_reportsOnly {i : Instr} (hwf : i.WellFormed) (s : State) : ReportsOnly (exec i s) (mayRaise i) := by
  cases i with
  | setPixel x y level => exact execSetPixel_reportsOnly x y level s
  | getPixel x y => exact execGetPixel_reportsOnly x y s
  | fill level => exact execFill_reportsOnly level s
  | clear => exact reportsOnly_ok _ _
  | fillRect x y w h level => exact execFillRect_reportsOnly x y w h level s
  | drawPixel x y level => exact execDrawPixel_reportsOnly x y level s
  | bbox => exact reportsOnly_ok s _
  | enPwr => exact (s.runCfg_raisesOnly .enPwr).reportsOnly
  | enVolt => exact (s.runCfg_raisesOnly .enVolt).reportsOnly
  | enOut => exact (s.runCfg_raisesOnly .enOut).reportsOnly
  | disOut => exact (s.runCfg_raisesOnly .disOut).reportsOnly
  | disVolt => exact (s.runCfg_raisesOnly .disVolt).reportsOnly
  | disPwr => exact (s.runCfg_raisesOnly .disPwr).reportsOnly
  | pulse high low wait =>
    rw [exec_pulse ((pulse_wellFormed_iff high low wait).mpr hwf)]
    exact (s.runPulse_raisesOnly high low wait).reportsOnly
  | powerOn => exact s.runPowerOn_marks.raisesOnly.reportsOnly
  | powerOff => exact s.runPowerOff_marks.raisesOnly.reportsOnly
  | flush mode => exact (s.runFlush_raisesOnly mode).reportsOnly
  | repair => exact (s.runRepairWith_raisesOnly _).reportsOnly
  | stat => exact reportsOnly_ok s _

/-! ### The statement of the family -/

/-- Settles O20, command by command: each step of a command raises only what the command's row lists. -/
theorem errorKindsPerCommand : Obligations.ErrorKindsPerCommand :=
  fun _ s t k hwf hexec => exec_reportsOnly hwf s t k hexec

end Sys2Proof.Machine
end

section
/-! PROOFS. The reset and hazards family (70_reset_and_hazards.md): during a power sequence the latches are in rail order after
every event (R186). A step of a sequence commits its byte with the last edge of its ShiftOut and not before, so the latches hold
in turn the old byte and the three intents, each of which is in rail order. -/

namespace Sys2Proof.Machine

/-! ### The intents of a power sequence are in rail order -/

/-- Outputs need both voltages, a voltage needs power. -/
theorem railsInOrder_iff (v : Byte) : railsInOrder v = true ↔
    (v.getLsbD 0 = true → v.getLsbD 3 = true ∧ v.getLsbD 4 = true) ∧
      (v.getLsbD 3 = true ∨ v.getLsbD 4 = true → v.getLsbD 2 = true) := by
  simp only [railsInOrder]
  grind

/-- Power, then both voltages, then the outputs are switched on (43_power_and_panel_ops.md R140). -/
theorem railsInOrder_upIntents {v : Byte} (h : railsInOrder v = true) :
    ∀ w ∈ [v ||| 0x04#8, v ||| 0x1C#8, v ||| 0x1D#8], railsInOrder w = true := by
  obtain ⟨hout, -⟩ := (railsInOrder_iff v).mp h
  simpa [railsInOrder_iff] using hout

/-- The outputs, then both voltages, then power are switched off (R141). -/
theorem railsInOrder_downIntents {v : Byte} (h : railsInOrder v = true) :
    ∀ w ∈ [v &&& 0xFE#8, v &&& 0xE6#8, v &&& 0xE2#8], railsInOrder w = true := by
  obtain ⟨-, hvolt⟩ := (railsInOrder_iff v).mp h
  simpa [railsInOrder_iff] using hvolt

/-! ### The latches at every moment of a list of events -/

/-- The latches of `r` are in rail order before the events `l`, after each of them and at their end. -/
def Receiver.RailsHold (r : Receiver) (l : List Event) : Prop := ∀ l', l' <+: l → railsInOrder (r.replay l').q = true

section
variable {r : Receiver}

theorem Receiver.railsHold_nil (h : railsInOrder r.q = true) : r.RailsHold [] := by
  intro l' hl'
  rwa [List.prefix_nil.mp hl']

theorem Receiver.RailsHold.final {l : List Event} (h : r.RailsHold l) : railsInOrder (r.replay l).q = true :=
  h l List.prefix_rfl

theorem Receiver.RailsHold.take {l : List Event} (h : r.RailsHold l) (n : Nat) : r.RailsHold (l.take n) :=
  fun l' hl' => h l' (hl'.trans (List.take_prefix n l))

theorem Receiver.RailsHold.append {a b : List Event} (ha : r.RailsHold a) (hb : (r.replay a).RailsHold b) :
    r.RailsHold (a ++ b) := by
  intro l' hl'
  rcases List.prefix_or_prefix_of_prefix hl' (List.prefix_append a b) with hin | ⟨m, rfl⟩
  · exact ha l' hin
  · rw [Receiver.replay_append]
    exact hb m ((List.prefix_append_right_inj a).mp hl')

/-- The transmitter's events do not reach the receiver (10_state.md R22). -/
theorem Receiver.replay_filter_ofCommandAgent (l : List Event) (r : Receiver) :
    r.replay (l.filter Event.ofCommandAgent) = r.replay l := by
  induction l generalizing r with
  | nil => rfl
  | cons e l ih =>
    cases e with
    | seg level ticks => exact ih r
    | txEnd => exact ih r
    | line n b => exact ih (r.react (.line n b))
    | settle ms => exact ih r
    | txStart segs => exact ih r
    | bus tag => exact ih r

/-- So whatever the transmitter interleaves, the command agent's events decide. -/
theorem Receiver.RailsHold.of_filter {l : List Event} (h : r.RailsHold (l.filter Event.ofCommandAgent)) : r.RailsHold l := by
  intro l' hl'
  rw [← Receiver.replay_filter_ofCommandAgent]
  exact h _ (hl'.filter _)

/-- A write shows the old byte until its last event and the new byte from there on (41_config_register_ops.md R111). -/
theorem Receiver.railsHold_writeEvents {v : Byte} (hq : railsInOrder r.q = true) (hv : railsInOrder v = true) :
    r.RailsHold (writeEvents v) := by
  intro l' hl'
  have hlen : l'.length ≤ 26 := hl'.length_le
  rw [List.prefix_iff_eq_take.mp hl']
  rcases Nat.lt_or_eq_of_le hlen with hpart | hall
  · rwa [r.replay_take_q v _ hpart]
  · rwa [hall, List.take_of_length_le (by simp), Receiver.replay_writeEvents]

theorem Receiver.railsHold_settledEvents {v : Byte} (hq : railsInOrder r.q = true) (hv : railsInOrder v = true) (ms : Nat) :
    r.RailsHold (settledEvents v ms) := by
  have hwrite := Receiver.railsHold_writeEvents hq hv
  have hsettle : (r.replay (settledEvents v ms)).q = (r.replay (writeEvents v)).q := by
    rw [settledEvents, Receiver.replay_append]; rfl
  intro l' hl'
  rcases List.prefix_concat_iff.mp hl' with rfl | hin
  · exact hsettle ▸ hwrite.final
  · exact hwrite l' hin

/-- Three writes, each begun where the one before it has ended. -/
theorem Receiver.railsHold_threeSettled {v1 v2 v3 : Byte} (hq : railsInOrder r.q = true)
    (hv : ∀ v ∈ [v1, v2, v3], railsInOrder v = true) (m1 m2 m3 : Nat) :
    r.RailsHold (settledEvents v1 m1 ++ settledEvents v2 m2 ++ settledEvents v3 m3) := by
  have hone := Receiver.railsHold_settledEvents hq (hv v1 (by simp)) m1
  have htwo := hone.append (Receiver.railsHold_settledEvents hone.final (hv v2 (by simp)) m2)
  exact htwo.append (Receiver.railsHold_settledEvents htwo.final (hv v3 (by simp)) m3)

theorem Receiver.railsHold_upEvents {v : Byte} (hq : railsInOrder r.q = true) (hv : railsInOrder v = true) :
    r.RailsHold (upEvents v) := by
  rw [upEvents_eq, enVolt_after_enPwr, enOut_after_enVolt]
  exact Receiver.railsHold_threeSettled hq (railsInOrder_upIntents hv) 10 20 5

theorem Receiver.railsHold_downEvents {v : Byte} (hq : railsInOrder r.q = true) (hv : railsInOrder v = true) :
    r.RailsHold (downEvents v) := by
  rw [downEvents_eq, disVolt_after_disOut, disPwr_after_disVolt]
  exact Receiver.railsHold_threeSettled hq (railsInOrder_downIntents hv) 5 20 10

end

/-! ### What a power command does -/

/-- From `s` to `t` the command agent has done events that keep the latches in rail order, and `CFG` has ended in rail order. -/
def State.RailsKept (s t : State) : Prop :=
  railsInOrder t.cfg = true ∧ ∃ l, t.commandTrace = s.commandTrace ++ l ∧ s.receiver.RailsHold l

theorem State.RailsKept.refl {s : State} (hcfg : railsInOrder s.cfg = true) (hq : railsInOrder s.q = true) : s.RailsKept s :=
  ⟨hcfg, [], by simp, Receiver.railsHold_nil hq⟩

theorem State.RailsKept.finish {s : State} {r : Run} (h : s.RailsKept r.state) : s.RailsKept r.finish := by
  obtain ⟨hcfg, hevents⟩ := h
  have htrace : r.finish.commandTrace = r.state.commandTrace :=
    Run.finish_keeps (fun _ _ _ => rfl) (fun _ _ => rfl) r
  exact ⟨by rwa [Run.finish_cfg], by rwa [htrace]⟩

/-- A sequence that fails after `n` events has shown no latches but those of its complete form (43_power_and_panel_ops.md
R143). -/
theorem State.Sequenced.railsKept {s : State} {r : Run} {p : PowerState} {events : List Event} {v1 v2 v3 : Byte} {n : Nat}
    (h : s.Sequenced r p events v1 v2 v3 n) (hv : ∀ v ∈ [v1, v2, v3], railsInOrder v = true)
    (hevents : s.receiver.RailsHold events) : s.RailsKept r.state :=
  ⟨hv _ h.cfg_mem, events.take n, h.commandTrace, hevents.take n⟩

section
variable {s : State} (hcfg : railsInOrder s.cfg = true) (hq : railsInOrder s.q = true)
include hcfg hq

theorem State.runPowerOn_railsKept : s.RailsKept s.runPowerOn.state := by
  by_cases hp : s.pwr = .on
  · rw [State.runPowerOn_of_on hp]
    exact .refl hcfg hq
  · obtain ⟨n, hseq⟩ := State.runPowerOn_sequenced hp
    exact hseq.railsKept (railsInOrder_upIntents hcfg) (Receiver.railsHold_upEvents hq hcfg)

theorem State.runPowerOff_railsKept : s.RailsKept s.runPowerOff.state := by
  by_cases hp : s.pwr = .off
  · rw [State.runPowerOff_of_off hp]
    exact .refl hcfg hq
  · obtain ⟨n, hseq⟩ := State.runPowerOff_sequenced hp
    exact hseq.railsKept (railsInOrder_downIntents hcfg) (Receiver.railsHold_downEvents hq hcfg)

end

/-- The events a command appends, the transmitter's among them, keep the rails where those of the command agent do. -/
theorem State.RailsKept.appended {s t : State} (h : s.RailsKept t) {l : List Event} (htrace : t.trace = s.trace ++ l) :
    s.receiver.RailsHold l := by
  obtain ⟨-, l', hcommand, hl'⟩ := h
  have hfilter : l.filter Event.ofCommandAgent = l' := by
    rw [State.commandTrace, htrace, List.filter_append] at hcommand
    exact List.append_cancel_left hcommand
  exact Receiver.RailsHold.of_filter (hfilter ▸ hl')

/-! ### The statement of the family -/

/-- Settles O53: the latches show the old byte and the three intents of the sequence, and nothing else. -/
theorem powerSequencesRespectRailOrder : Obligations.PowerSequencesRespectRailOrder := by
  intro i s t r hi hr hcfg hq hexec
  have hkept : s.RailsKept t := by
    rcases hi with rfl | rfl
    · obtain rfl : s.runPowerOn.finish = t := Host.Outcome.next.inj hexec
      exact (State.runPowerOn_railsKept hcfg hq).finish
    · obtain rfl : s.runPowerOff.finish = t := Host.Outcome.next.inj hexec
      exact (State.runPowerOff_railsKept hcfg hq).finish
  obtain ⟨l, htrace, hreceiver⟩ := exec_grew hexec
  have hrails := hkept.appended htrace
  obtain ⟨hcfg', -⟩ := hkept
  refine ⟨hcfg', ?_, ?_⟩
  · show railsInOrder t.receiver.q = true
    exact hreceiver ▸ hrails.final
  · rintro p ⟨m, rfl⟩ hp
    rw [htrace, List.prefix_append_right_inj] at hp
    rw [Receiver.replay_append, hr]
    exact hrails m hp

end Sys2Proof.Machine
end
